-- ==== Sys2Proof/Word.lean ====
section
/-! DEFINITION. The word types of the SL1602 bus transceive block (00_scope.md rule R9: every value is unsigned). -/

namespace Sys2Proof

/-- A byte: an 8-bit unsigned value (R9). -/
abbrev Byte := BitVec 8

/-- A CMD32 command word (R71). -/
abbrev Word := BitVec 32

/-- A queue index counter of CTR_W = 32 bits (R32). -/
abbrev Counter := BitVec 32

/-- A time stamp of NOW_W = 64 bits (R31, R33). -/
abbrev Time := BitVec 64

end Sys2Proof
end

