-- ==== Sys2Proof/Config.lean ====
section
/-! DEFINITION. The implementation parameters of 00_scope.md rule R6, what one step takes from outside
the block (the draws of R10 and the choice of the agent that moves, R238), and the values the spec
leaves open, as constants without a body. None of them is state (10_state.md rule R38). -/

namespace Sys2Proof

/-! ## Parameters with a value (R6) -/

/-- CAPACITY: bytes per message buffer (R6). -/
abbrev Config.capacity : Nat := 128

/-- SOF, the frame-start marker (R6). -/
abbrev Config.sof : Byte := 0xF0

/-- EOF, the frame-end marker (R6). -/
abbrev Config.eof : Byte := 0xF7

/-- N_INT: depth of the intercept queue in slots; each slot holds a pair of buffers (R6, R110). -/
abbrev Config.nInt : Nat := 2

/-- N_REQ: depth of the injection-request queue (R6). -/
abbrev Config.nReq : Nat := 1

/-- N_RSP: depth of the injection-response queue (R6). -/
abbrev Config.nRsp : Nat := 4

/-- CTR_W: width of a queue index counter (R6). -/
abbrev Config.ctrW : Nat := 32

/-- RST_CFG: reset value of CFG (R6). -/
abbrev Config.rstCfg : Byte := 0x00

/-! ## Open parameters with a default (R6): fixed for a machine, and no part of its state (R38) -/

/-- SCHED: whether the two contexts run on two loops or on one (R6, R238). -/
inductive Sched where
  | dual
  | single
  deriving DecidableEq, Repr, Inhabited

/-- MIRROR_ORDER: which of a pair's frames is mirrored first (R6, R133). -/
inductive MirrorOrder where
  | upFirst
  | dnFirst
  deriving DecidableEq, Repr, Inhabited

/-- The open parameters that a rule of the spec reads (R6): every one that has a default. Every value of
this type keeps the constraints of R7; arguments outside them are refused before there is a value of it
(`Arguments.accept` in WellFormed.lean, log entry 15). -/
structure Params where
  /-- TICK_HZ - 1, so that every value of the field is a TICK_HZ of at least 1 (R7). -/
  tickHzLessOne : Nat
  /-- GUARD_TICKS: minimum ticks between asserting ARB and re-checking READY. -/
  guardTicks : Nat
  /-- SCHED. -/
  sched : Sched
  /-- MIRROR_ORDER. -/
  mirrorOrder : MirrorOrder
  /-- ERR_LOST_UPDATES: whether a fault set may be lost when it races with an ERR_CLEAR (R62). -/
  errLostUpdates : Bool
  deriving DecidableEq, Repr, Inhabited

/-- TICK_HZ: NOW increments per second (R6). -/
def Params.tickHz (p : Params) : Nat := p.tickHzLessOne + 1

/-- TIMEOUT_TICKS: the capture deadline, 1 x TICK_HZ (R6, R162). -/
def Params.timeoutTicks (p : Params) : Nat := p.tickHz

/-- The open parameters of this machine: any that R7 allows. A constant without a body, so that every
proof holds for all of them, and no part of the state (R6, R38). Log entry 2. -/
opaque Config.params : Params

/-- The defaults that R6 shows, which the spec's examples use. No step reads them. -/
def Config.defaults : Params :=
  { tickHzLessOne := 999999, guardTicks := 0, sched := .dual, mirrorOrder := .upFirst, errLostUpdates := false }

/-! ## What one step takes from outside the block -/

/-- Which agent of R5 makes the step. -/
inductive Turn where
  /-- ENGINE executes the step that FSM names (R26). -/
  | engine
  /-- HOST presents one CMD32 word (R190). -/
  | host (word : Word)
  /-- TIMER advances NOW by `d = extra + 1` ticks, so that every `extra` is a draw with d >= 1 (R31). -/
  | timer (extra : Nat)
  deriving DecidableEq, Repr, Inhabited

/-- One move of the run: the agent that steps and every value the step may draw (R10). A step reads
only the draws its rule names. -/
structure Move where
  /-- The agent that moves (R238). -/
  turn : Turn
  /-- The READY level, sampled by S_EVAL, S_GUARD and a read of STATUS (R30). -/
  ready : Bool
  /-- The byte UP_RX offers an S_SNOOP step, if any (R34). -/
  up : Option Byte
  /-- The byte DN_RX offers an S_SNOOP step, if any (R34). -/
  dn : Option Byte
  /-- The bytes XCV has received since the last move and not delivered, oldest first (R29, R37). -/
  xcvIn : List Byte
  /-- Whether the bus master clocks one byte on XCV, and the loopback byte it returns (R154). -/
  clock : Option Byte
  /-- Bit k: a raise of fault code k in this step is lost, where R62 lets it be (the draw `lost`). -/
  lost : BitVec 8
  deriving DecidableEq, Repr, Inhabited

/-- A move in which the bus is quiet: no byte, READY 0, no bus clock, nothing lost. -/
def Move.quiet (t : Turn) : Move :=
  { turn := t, ready := false, up := none, dn := none, xcvIn := [], clock := none, lost := 0 }

/-! ## Free values: constants without a body, so that no proof can rest on what they are -/

/-- The n-th move of the run where the state lists none (R5, R238: any interleaving; R10: a draw is
under no law). Log entry 1. -/
opaque Config.freeMove : Nat → Move

/-- What the storage byte at an address holds at power-up (R21, R261: any value, a draw at reset).
Log entry 3. -/
opaque Config.powerOnByte : Nat → Byte

/-- XCV_IDLE_TX: what the block drives on XCV's transmit line outside an exchange (R6, R29: the
platform's). Log entry 4. -/
opaque Config.xcvIdleTx : Byte

/-- The two orders in which a byte's bits can be shifted on a synchronous channel (R56). -/
inductive WireBitOrder where
  | msbFirst
  | lsbFirst
  deriving DecidableEq, Repr, Inhabited

/-- WIRE_BIT_ORDER (R6, R56: the platform's; no rule depends on it). Log entry 4. -/
opaque Config.wireBitOrder : WireBitOrder

end Sys2Proof
end

