-- ==== Sys2Proof/Syntax.lean ====
section
/-! DEFINITION. The operations of the block: one constructor per row of spec/opcode_table.json
(30_encoding.md rules R73, R78, R80). A constructor holds the fields its operation uses (R75). -/

namespace Sys2Proof

/-- The operations of the opcode table. -/
inductive Instr where
  -- CMD32: the host commands (R73).
  | nop
  | rdreg (sel idx : Byte)
  | wrreg (sel data : Byte)
  | errClear
  | qcount (sel : Byte)
  | reqWrite (idx data : Byte)
  | reqSetlen (data : Byte)
  | reqPublish
  | intRead (sel idx : Byte)
  | intLen (sel : Byte)
  | intRelease
  | rspRead (idx : Byte)
  | rspLen
  | rspRelease
  -- FSM4: the ENGINE steps (R78).
  | sSnoop
  | sEval
  | sGuard
  | sValidate
  | sTx
  | sCap
  | sCommit
  | sAbort
  -- FA9: the frame-assembler operations (R80).
  | faAppend (byte : Byte)
  | faClear
  deriving DecidableEq, Repr, Inhabited

/-- The three word formats (R70). -/
inductive Format where
  | cmd32
  | fsm4
  | fa9
  deriving DecidableEq, Repr, Inhabited

/-- The format whose words carry an operation (R70). -/
def Instr.format : Instr → Format
  | .nop => .cmd32
  | .rdreg _ _ => .cmd32
  | .wrreg _ _ => .cmd32
  | .errClear => .cmd32
  | .qcount _ => .cmd32
  | .reqWrite _ _ => .cmd32
  | .reqSetlen _ => .cmd32
  | .reqPublish => .cmd32
  | .intRead _ _ => .cmd32
  | .intLen _ => .cmd32
  | .intRelease => .cmd32
  | .rspRead _ => .cmd32
  | .rspLen => .cmd32
  | .rspRelease => .cmd32
  | .sSnoop => .fsm4
  | .sEval => .fsm4
  | .sGuard => .fsm4
  | .sValidate => .fsm4
  | .sTx => .fsm4
  | .sCap => .fsm4
  | .sCommit => .fsm4
  | .sAbort => .fsm4
  | .faAppend _ => .fa9
  | .faClear => .fa9

end Sys2Proof
end

