-- ==== Sys2Proof/WellFormed.lean ====
section
/-! DEFINITION. What is well formed: the constraints on the parameters, with the refusal of arguments that
break them (00_scope.md rule R7), and the field ranges that the host commands accept (30_encoding.md rule
R72). Every value of a field's type is encodable, so every instruction is a word; a field outside its range
makes the command answer RANGE, it does not make the word illegal. -/

namespace Sys2Proof

/-- A queue depth R7 allows: a power of two from 1 to 128. -/
def depthWf (n : Nat) : Bool :=
  n == 1 || n == 2 || n == 4 || n == 8 || n == 16 || n == 32 || n == 64 || n == 128

/-- R7 on the fixed parameters: the depths, N_INT >= 2, and a counter wide enough that a modular
count is unambiguous. -/
def sizesWf (nInt nReq nRsp ctrW : Nat) : Bool :=
  depthWf nInt && depthWf nReq && depthWf nRsp && decide (2 ≤ nInt) &&
    decide (2 * max nInt (max nReq nRsp) < 2 ^ ctrW)

/-- The parameters of R6 that R7 constrains or a rule reads, as a model is given them. -/
structure Arguments where
  nInt : Nat
  nReq : Nat
  nRsp : Nat
  ctrW : Nat
  tickHz : Nat
  guardTicks : Nat
  sched : Sched
  mirrorOrder : MirrorOrder
  errLostUpdates : Bool
  deriving DecidableEq, Repr, Inhabited

/-- R7: the constraints on the sizes, and TICK_HZ >= 1 (GUARD_TICKS >= 0 holds of every Nat). -/
def Arguments.wf (a : Arguments) : Bool :=
  sizesWf a.nInt a.nReq a.nRsp a.ctrW && decide (1 ≤ a.tickHz)

/-- The sizes are the ones of this hardware (R6; log entry 16). -/
def Arguments.fixedSizes (a : Arguments) : Bool :=
  a.nInt == Config.nInt && a.nReq == Config.nReq && a.nRsp == Config.nRsp && a.ctrW == Config.ctrW

/-- Why a model refuses its arguments. -/
inductive ArgumentError where
  /-- They break a constraint of R7. -/
  | outsideConstraints
  /-- They keep R7, and their sizes are those of another firmware (log entry 16). -/
  | otherSizes
  deriving DecidableEq, Repr, Inhabited

/-- "A model given parameters outside these constraints refuses them" (R7): the open parameters of a
machine, or the refusal. Log entry 15. -/
def Arguments.accept (a : Arguments) : Except ArgumentError Params :=
  if a.wf then
    if a.fixedSizes then
      .ok
        { tickHzLessOne := a.tickHz - 1
          guardTicks := a.guardTicks
          sched := a.sched
          mirrorOrder := a.mirrorOrder
          errLostUpdates := a.errLostUpdates }
    else .error .otherSizes
  else .error .outsideConstraints

/-- The fields of a command lie in the ranges it accepts (R72, R77 and the first test of each rule
R192 to R202). The operations of the other formats and the commands without a ranged field pass. -/
def Instr.inRange : Instr → Bool
  | .nop => true
  | .rdreg sel idx => decide (sel.toNat ≤ 0x08) && decide (idx.toNat ≤ 3)
  | .wrreg sel _ => decide (sel.toNat ≤ 0x08)
  | .errClear => true
  | .qcount sel => decide (sel.toNat ≤ 0x02)
  | .reqWrite idx _ => decide (idx.toNat ≤ 127)
  | .reqSetlen data => decide (data.toNat ≤ 128)
  | .reqPublish => true
  | .intRead sel idx => decide (sel.toNat ≤ 0x01) && decide (idx.toNat ≤ 127)
  | .intLen sel => decide (sel.toNat ≤ 0x01)
  | .intRelease => true
  | .rspRead idx => decide (idx.toNat ≤ 127)
  | .rspLen => true
  | .rspRelease => true
  | .sSnoop => true
  | .sEval => true
  | .sGuard => true
  | .sValidate => true
  | .sTx => true
  | .sCap => true
  | .sCommit => true
  | .sAbort => true
  | .faAppend _ => true
  | .faClear => true

end Sys2Proof
end

