-- ==== Sys2Proof/Decode.lean ====
section
/-! DEFINITION. The decoder and the encoder of the three word formats (30_encoding.md rules R70 to R83).
The decoder is total: a word outside the map is refused by name. -/

namespace Sys2Proof

/-- A word of one of the three formats, at its own width (R70). -/
inductive CodeWord where
  | cmd32 (w : Word)
  | fsm4 (w : BitVec 4)
  | fa9 (w : BitVec 9)
  deriving DecidableEq, Repr, Inhabited

/-- Why a word decodes to no operation. -/
inductive DecodeError where
  /-- A CMD32 word whose `op` R73 does not list (R74). -/
  | reservedOpcode
  /-- An FSM code 0x8 to 0xF (R79). -/
  | reservedState
  deriving DecidableEq, Repr, Inhabited

/-- `op` = bits 31:24 (R71). -/
def opOf (w : Word) : Byte := w.extractLsb' 24 8

/-- `sel` = bits 23:16 (R71). -/
def selOf (w : Word) : Byte := w.extractLsb' 16 8

/-- `idx` = bits 15:8 (R71). -/
def idxOf (w : Word) : Byte := w.extractLsb' 8 8

/-- `data` = bits 7:0 (R71). -/
def dataOf (w : Word) : Byte := w.extractLsb' 0 8

/-- The command a CMD32 word stands for (R73, R74, R83); fields a command does not use are ignored (R75). -/
def decodeCmd32 (w : Word) : Except DecodeError Instr :=
  match (opOf w).toNat with
  | 0x00 => .ok .nop
  | 0x01 => .ok (.rdreg (selOf w) (idxOf w))
  | 0x02 => .ok (.wrreg (selOf w) (dataOf w))
  | 0x03 => .ok .errClear
  | 0x04 => .ok (.qcount (selOf w))
  | 0x10 => .ok (.reqWrite (idxOf w) (dataOf w))
  | 0x11 => .ok (.reqSetlen (dataOf w))
  | 0x12 => .ok .reqPublish
  | 0x20 => .ok (.intRead (selOf w) (idxOf w))
  | 0x21 => .ok (.intLen (selOf w))
  | 0x22 => .ok .intRelease
  | 0x30 => .ok (.rspRead (idxOf w))
  | 0x31 => .ok .rspLen
  | 0x32 => .ok .rspRelease
  | _ => .error .reservedOpcode

/-- The ENGINE step a value of FSM selects (R78, R79). -/
def decodeFsm4 (c : BitVec 4) : Except DecodeError Instr :=
  match c.toNat with
  | 0x0 => .ok .sSnoop
  | 0x1 => .ok .sEval
  | 0x2 => .ok .sGuard
  | 0x3 => .ok .sValidate
  | 0x4 => .ok .sTx
  | 0x5 => .ok .sCap
  | 0x6 => .ok .sCommit
  | 0x7 => .ok .sAbort
  | _ => .error .reservedState

/-- The frame-assembler operation of an FA9 word: bit 8 `fop`, bits 7:0 `byte` (R80). -/
def decodeFa9 (w : BitVec 9) : Instr :=
  if w.getLsbD 8 then .faClear else .faAppend (w.extractLsb' 0 8)

/-- The operation of a word of any format (R70). -/
def decode : CodeWord → Except DecodeError Instr
  | .cmd32 w => decodeCmd32 w
  | .fsm4 c => decodeFsm4 c
  | .fa9 w => .ok (decodeFa9 w)

/-- A table row's bits as a word of its format: the row's width in whole bytes says which of the
three it is (8 bits for FSM4, 16 for FA9, 32 for CMD32), and a format keeps the bits of its width (R70). -/
def wordOfBits (nbits w : Nat) : CodeWord :=
  if nbits ≤ 8 then .fsm4 (BitVec.ofNat 4 w)
  else if nbits ≤ 16 then .fa9 (BitVec.ofNat 9 w)
  else .cmd32 (BitVec.ofNat 32 w)

/-- The operation the decoder reads from a table row's bits. -/
def decodeTableWord (nbits w : Nat) : Option Instr :=
  match decode (wordOfBits nbits w) with
  | .ok i => some i
  | .error _ => none

/-! ## The encoder -/

/-- `enc(op, sel, idx, data)`: the four fields from the top of the word down (R71, R83). -/
def enc (op sel idx data : Byte) : Word := op ++ sel ++ idx ++ data

/-- The word of an operation; fields a command does not use are 0 (R82). -/
def encode : Instr → CodeWord
  | .nop => .cmd32 (enc 0x00 0 0 0)
  | .rdreg sel idx => .cmd32 (enc 0x01 sel idx 0)
  | .wrreg sel data => .cmd32 (enc 0x02 sel 0 data)
  | .errClear => .cmd32 (enc 0x03 0 0 0)
  | .qcount sel => .cmd32 (enc 0x04 sel 0 0)
  | .reqWrite idx data => .cmd32 (enc 0x10 0 idx data)
  | .reqSetlen data => .cmd32 (enc 0x11 0 0 data)
  | .reqPublish => .cmd32 (enc 0x12 0 0 0)
  | .intRead sel idx => .cmd32 (enc 0x20 sel idx 0)
  | .intLen sel => .cmd32 (enc 0x21 sel 0 0)
  | .intRelease => .cmd32 (enc 0x22 0 0 0)
  | .rspRead idx => .cmd32 (enc 0x30 0 idx 0)
  | .rspLen => .cmd32 (enc 0x31 0 0 0)
  | .rspRelease => .cmd32 (enc 0x32 0 0 0)
  | .sSnoop => .fsm4 0x0
  | .sEval => .fsm4 0x1
  | .sGuard => .fsm4 0x2
  | .sValidate => .fsm4 0x3
  | .sTx => .fsm4 0x4
  | .sCap => .fsm4 0x5
  | .sCommit => .fsm4 0x6
  | .sAbort => .fsm4 0x7
  | .faAppend byte => .fa9 (0#1 ++ byte)
  | .faClear => .fa9 0x100

end Sys2Proof
end

