-- ==== Sys2Proof/Machine/State.lean ====
section
/-! DEFINITION. The block's state (10_state.md), the reasons a step can stop, and the state after reset
(10_state.md rule R39, 70_reset_and_hazards.md rule R261). State is plain data: the block's own
registers and storage first, then the model's own fields, which say what the environment supplies next
and what the last step showed to the outside. -/

namespace Sys2Proof.Machine

/-! ## Message buffers -/

/-- The two snooped channels (R21, R34, R77). -/
inductive Chan where
  | up
  | dn
  deriving DecidableEq, Repr, Inhabited

/-- The names of the block's message buffers (R21). -/
inductive BufName where
  | int (s : Fin Config.nInt) (c : Chan)
  | req (s : Fin Config.nReq)
  | rsp (s : Fin Config.nRsp)
  | cap
  deriving DecidableEq, Repr

/-- How many message buffers there are: N_INT x 2 + N_REQ + N_RSP + 1 (R50). -/
abbrev bufferCount : Nat := Config.nInt * 2 + Config.nReq + Config.nRsp + 1

/-- The storage bytes of all the buffers (R50). -/
abbrev storageBytes : Nat := bufferCount * Config.capacity

/-- A buffer's two cursors (R21): `fill_pos`, 7 bits, and `complete_len`, 8 bits. -/
structure Cursors where
  fillPos : BitVec 7
  completeLen : Byte
  deriving DecidableEq, Repr, Inhabited

/-- Both cursors 0: an idle buffer (R22). -/
def Cursors.idle : Cursors := { fillPos := 0, completeLen := 0 }

/-- The buffers' bytes by storage address, addresses strictly rising. A byte that nothing has written
since power-up is not listed (R21, R261). -/
abbrev Memory := List Host.Cell

/-! ## Names the rules use -/

/-- The three queues (R110). -/
inductive Queue where
  | int
  | req
  | rsp
  deriving DecidableEq, Repr, Inhabited

/-- The ENGINE's states (R26, R78). -/
inductive EngineState where
  | snoop
  | eval
  | guard
  | validate
  | tx
  | cap
  | commit
  | abort
  deriving DecidableEq, Repr, Inhabited

/-- The fault kinds of the error register (R232). -/
inductive FaultKind where
  | framing
  | overflow
  | timeout
  | glitch
  | bpInt
  | bpReq
  | bpRsp
  deriving DecidableEq, Repr, Inhabited

/-- The status of a host command's result (R76). -/
inductive Status where
  | ok
  | empty
  | full
  | range
  | illegal
  deriving DecidableEq, Repr, Inhabited

/-- A host command's result `(st, rdata)` (R76). -/
structure CmdResult where
  st : Status
  rdata : Byte
  deriving DecidableEq, Repr, Inhabited

/-- The outcome of an FA_APPEND (R81). -/
inductive FaOutcome where
  | ignored
  | inProgress
  | complete (len : Byte)
  | overflow
  | rejected
  deriving DecidableEq, Repr, Inhabited

/-- What a step does on the transceive channel, besides polling it (R29). -/
inductive XcvAct where
  /-- The received bytes the platform has buffered are discarded. -/
  | flush
  /-- One byte is transmitted. -/
  | exchange (sent : Byte)
  deriving DecidableEq, Repr, Inhabited

/-- What the last step showed to the outside. The model's own record: the spec's results and bus
actions are values of a step, not registers (R35, R36, R244). Log entry 7. -/
structure Out where
  /-- The result of the host command, where the step executed one (R76). -/
  result : Option CmdResult
  /-- The action on XCV, if the step took one (R29). -/
  xcv : Option XcvAct
  /-- The fault kinds the step raised, by ERR bit, whether or not the update was lost (R244). -/
  raised : BitVec 8
  /-- The outcome of the FA_APPEND, where the step was that operation on its own (R81). -/
  fa : Option FaOutcome
  deriving DecidableEq, Repr, Inhabited

/-- A step that has shown nothing yet. -/
def Out.none : Out := { result := Option.none, xcv := Option.none, raised := 0, fa := Option.none }

/-! ## The state -/

/-- The block's state and, after it, the model's own fields. -/
structure State where
  /-- The bytes `buf` of every message buffer (R21, R50). -/
  mem : Memory
  /-- The cursors of every message buffer, in the order of `BufName.index` (R21). -/
  cursors : Vector Cursors bufferCount
  /-- ERR, the error register (R23). -/
  err : BitVec 8
  /-- CFG, the configuration register (R24). -/
  cfg : BitVec 8
  /-- FSM, the ENGINE state register (R26). -/
  fsm : BitVec 4
  /-- ARB, the bus-arbitration output, true for 1 (R27). -/
  arb : Bool
  /-- ATTN_N, the request-attention output, true for 1 (R28). -/
  attnN : Bool
  /-- INT_W (R32). -/
  intW : Counter
  /-- INT_R (R32). -/
  intR : Counter
  /-- REQ_W (R32). -/
  reqW : Counter
  /-- REQ_R (R32). -/
  reqR : Counter
  /-- RSP_W (R32). -/
  rspW : Counter
  /-- RSP_R (R32). -/
  rspR : Counter
  /-- TXI, the index of the next request byte to transmit (R33). -/
  txi : BitVec 8
  /-- T0, the transaction's time stamp (R33). -/
  t0 : Time
  /-- NOW, the tick counter (R31). -/
  now : Time
  /-- The model's own: no ENGINE or HOST step has run since the last ERR_CLEAR (R62). Log entry 9. -/
  errFresh : Bool
  /-- The model's own: the bytes XCV has received and not delivered, oldest first. The platform's
  receive buffer, which is the environment's (R37). Log entry 8. -/
  xcvRx : List Byte
  /-- The model's own: the moves that come next, the first of them first. Log entry 1. -/
  tape : List Move
  /-- The model's own: how many moves have been taken. Log entry 1. -/
  moves : Nat
  /-- The model's own: an FA9 word to be executed on its own (R80). Log entry 10. -/
  faWord : Option (BitVec 9)
  /-- The model's own: the buffer that FA_APPEND and FA_CLEAR act on when they are executed as
  operations of the table; the word does not name it (R80). Log entry 10. -/
  faBuf : BufName
  /-- The model's own: what the last step showed. Log entry 7. -/
  out : Out
  deriving DecidableEq, Repr

/-! ## Why a step stops -/

/-- The faults of the model. None of them is a fault kind of ERR: those never stop a step (R230). -/
inductive Fault where
  /-- Raised by a step of ENGINE when FSM holds a reserved code 0x8 to 0xF; the spec names this fault
  (R79). Safe. -/
  | badState
  /-- Raised by S_VALIDATE, S_TX and the push into the response queue when a cursor beyond the
  capacity names a byte that does not exist (R52); no reachable state has such a cursor. Safe. -/
  | noSuchByte
  deriving DecidableEq, Repr, Inhabited

/-- The refusals of the model. Parameters outside R7 are refused before a machine exists
(`Arguments.accept`), so that no step refuses anything. -/
inductive Refusal where
  /-- Raised by `exec` alone for an instruction that has no meaning yet; no arm raises it. Safe. -/
  | notModelled (mnemonic : String)
  deriving DecidableEq, Repr, Inhabited

/-! ## Reset -/

/-- The machine right after reset (R39, R261): every buffer idle, its bytes unspecified; ERR, CFG, the
index counters, TXI, T0 and NOW 0; FSM = S_SNOOP, ARB released, ATTN_N deasserted. -/
def State.reset : State :=
  { mem := []
    cursors := Vector.replicate bufferCount Cursors.idle
    err := 0x00
    cfg := Config.rstCfg
    fsm := 0x0
    arb := false
    attnN := true
    intW := 0
    intR := 0
    reqW := 0
    reqR := 0
    rspW := 0
    rspR := 0
    txi := 0
    t0 := 0
    now := 0
    errFresh := false
    xcvRx := []
    tape := []
    moves := 0
    faWord := none
    faBuf := .cap
    out := Out.none }

end Sys2Proof.Machine
end

