-- ==== Sys2Proof/Machine/Flags.lean ====
section
/-! DEFINITION. The flags of the block: the bits of ERR, CFG and STATUS, and the codes of statuses,
outcomes and ENGINE states (10_state.md rules R23 to R26; 30_encoding.md rules R76, R78, R81). The
block has no condition codes (R35). -/

namespace Sys2Proof.Machine

/-- The ERR bit of a fault kind, its cause code (R23, R232). -/
def FaultKind.code : FaultKind → Nat
  | .framing => 0
  | .overflow => 1
  | .timeout => 2
  | .glitch => 3
  | .bpInt => 4
  | .bpReq => 5
  | .bpRsp => 6

/-- `1 << bit(K)` (R231). -/
def FaultKind.mask (k : FaultKind) : BitVec 8 := 1#8 <<< k.code

/-- The code `st` of a status (R76). -/
def Status.code : Status → BitVec 3
  | .ok => 0
  | .empty => 1
  | .full => 2
  | .range => 3
  | .illegal => 4

/-- The code `kind` of an FA_APPEND outcome (R81). -/
def FaOutcome.kind : FaOutcome → BitVec 3
  | .ignored => 0
  | .inProgress => 1
  | .complete _ => 2
  | .overflow => 3
  | .rejected => 4

/-- The FSM code of an ENGINE state (R78). -/
def EngineState.code : EngineState → BitVec 4
  | .snoop => 0x0
  | .eval => 0x1
  | .guard => 0x2
  | .validate => 0x3
  | .tx => 0x4
  | .cap => 0x5
  | .commit => 0x6
  | .abort => 0x7

/-- CFG bit 0, ROUTE (R24). -/
def State.route (s : State) : Bool := s.cfg.getLsbD 0

/-- CFG bit 1, NOREQ (R24). -/
def State.noReq (s : State) : Bool := s.cfg.getLsbD 1

/-- What a write leaves in CFG: bits 7:2 are reserved, and writes to them are ignored (R24, R193). -/
def cfgWritten (data : Byte) : BitVec 8 := data &&& 0x03

/-- STATUS = `{0, READY, ATTN_N, ARB, FSM[3:0]}`, computed when read from a sample of READY (R25, R192). -/
def State.statusReg (s : State) (ready : Bool) : BitVec 8 :=
  0#1 ++ BitVec.ofBool ready ++ BitVec.ofBool s.attnN ++ BitVec.ofBool s.arb ++ s.fsm

end Sys2Proof.Machine
end

