-- ==== Sys2Proof/Machine/Operands.lean ====
section
/-! DEFINITION. The operand forms of the host commands: the selector tables for registers, queues and
channels and the byte lanes of a register (30_encoding.md rules R72, R77; 20_memory.md rule R55). -/

namespace Sys2Proof.Machine

/-- The registers that RDREG and WRREG name (R77). -/
inductive RegName where
  | err
  | cfg
  | status
  | intW
  | intR
  | reqW
  | reqR
  | rspW
  | rspR
  deriving DecidableEq, Repr, Inhabited

/-- The register a selector names; 0x09 to 0xFF are reserved (R77). -/
def regOfSel (sel : Byte) : Option RegName :=
  match sel.toNat with
  | 0x00 => some .err
  | 0x01 => some .cfg
  | 0x02 => some .status
  | 0x03 => some .intW
  | 0x04 => some .intR
  | 0x05 => some .reqW
  | 0x06 => some .reqR
  | 0x07 => some .rspW
  | 0x08 => some .rspR
  | _ => none

/-- The queue a selector names (R77). -/
def queueOfSel (sel : Byte) : Option Queue :=
  match sel.toNat with
  | 0x00 => some .int
  | 0x01 => some .req
  | 0x02 => some .rsp
  | _ => none

/-- The channel a selector names (R77). -/
def chanOfSel (sel : Byte) : Option Chan :=
  match sel.toNat with
  | 0x00 => some .up
  | 0x01 => some .dn
  | _ => none

/-- A register's value, widened to 32 bits (R192). -/
def State.regValue (s : State) (ready : Bool) : RegName → BitVec 32
  | .err => s.err.setWidth 32
  | .cfg => s.cfg.setWidth 32
  | .status => (s.statusReg ready).setWidth 32
  | .intW => s.intW
  | .intR => s.intR
  | .reqW => s.reqW
  | .reqR => s.reqR
  | .rspW => s.rspW
  | .rspR => s.rspR

/-- Lane `k` of a value: bits `[8k+7:8k]`, lane 0 the least significant byte (R55). -/
def laneOf (v : BitVec 32) (k : Nat) : Byte := v.extractLsb' (8 * k) 8

end Sys2Proof.Machine
end

