-- ==== Sys2Proof/Machine/Ops.lean ====
section
/-! DEFINITION. The shared operations over storage, cursors, queue counters and registers, and the
recording of a fault, which is all the block has of an exception: no state is saved, no vector is
fetched, no mode changes and there is no return (60_exceptions.md rules R230, R231, R235, R236). -/

namespace Sys2Proof.Machine

/-! ## Storage (20_memory.md) -/

/-- A buffer's place in `State.cursors` and in storage. DESIGN CHOICE: the order of R50's sum; the
spec's addresses are pairs of a buffer and an index (R52), and nothing can see the order. Log entry 5. -/
def BufName.index : BufName → Fin bufferCount
  | .int s .up => ⟨2 * s.val, by have := s.isLt; simp only [bufferCount, Config.nInt] at *; omega⟩
  | .int s .dn => ⟨2 * s.val + 1, by have := s.isLt; simp only [bufferCount, Config.nInt] at *; omega⟩
  | .req s => ⟨2 * Config.nInt + s.val, by
      have := s.isLt; simp only [bufferCount, Config.nInt, Config.nReq] at *; omega⟩
  | .rsp s => ⟨2 * Config.nInt + Config.nReq + s.val, by
      have := s.isLt; simp only [bufferCount, Config.nInt, Config.nReq, Config.nRsp] at *; omega⟩
  | .cap => ⟨2 * Config.nInt + Config.nReq + Config.nRsp, by
      simp only [bufferCount, Config.nInt, Config.nReq, Config.nRsp]; omega⟩

/-- The storage address of byte `i` of a buffer, `i` below the capacity (R52). -/
def byteAddr (b : BufName) (i : Nat) : Nat := b.index.val * Config.capacity + i

/-- The byte written last at an address, if one was. -/
def Memory.read : Memory → Nat → Option Byte
  | [], _ => none
  | (a', v) :: m, a => if a = a' then some v else Memory.read m a

/-- Writes one byte at an address, keeping the addresses strictly rising. -/
def Memory.write : Memory → Nat → Byte → Memory
  | [], a, v => [(a, v)]
  | (a', v') :: m, a, v =>
    if a < a' then (a, v) :: (a', v') :: m
    else if a = a' then (a, v) :: m
    else (a', v') :: Memory.write m a v

/-- Every listed address is above `lo`-many and they strictly rise. -/
def Memory.risesFrom : Nat → Memory → Bool
  | _, [] => true
  | lo, (a, _) :: m => decide (lo ≤ a) && Memory.risesFrom (a + 1) m

/-- The canonical form: addresses strictly rising, each one an address of the storage. An unlisted
address has no value of its own, so no entry can equal what an unlisted address reads as. -/
def Memory.wf (m : Memory) : Bool :=
  Memory.risesFrom 0 m && m.all (fun c => decide (c.1 < storageBytes))

/-- `MemRead(<B, i>, 1)` for `i` below the capacity (R52). A byte that nothing has written since
power-up is a free value: the spec leaves it any value, drawn once at reset (R261). Log entry 3. -/
def State.byteAt (s : State) (b : BufName) (i : Nat) : Byte :=
  (Memory.read s.mem (byteAddr b i)).getD (Config.powerOnByte (byteAddr b i))

/-- `MemWrite(<B, i>, 1, v)` for `i` below the capacity (R52). -/
def State.putByte (s : State) (b : BufName) (i : Nat) (v : Byte) : State :=
  { s with mem := Memory.write s.mem (byteAddr b i) v }

/-! ## Cursors (10_state.md rules R21, R22) -/

/-- A buffer's cursors. -/
def State.cursorsOf (s : State) (b : BufName) : Cursors := s.cursors.get b.index

/-- Writes a buffer's cursors. -/
def State.setCursors (s : State) (b : BufName) (c : Cursors) : State :=
  { s with cursors := s.cursors.set b.index.val c b.index.isLt }

/-- `B.fill_pos`. -/
def State.fillPos (s : State) (b : BufName) : BitVec 7 := (s.cursorsOf b).fillPos

/-- `B.complete_len`. -/
def State.completeLen (s : State) (b : BufName) : Byte := (s.cursorsOf b).completeLen

/-- `B.fill_pos <- p`. -/
def State.setFillPos (s : State) (b : BufName) (p : BitVec 7) : State :=
  s.setCursors b { s.cursorsOf b with fillPos := p }

/-- `B.complete_len <- n`. -/
def State.setCompleteLen (s : State) (b : BufName) (n : Byte) : State :=
  s.setCursors b { s.cursorsOf b with completeLen := n }

/-- `idle(B)`: both cursors are 0 (R22). -/
def State.idle (s : State) (b : BufName) : Bool := s.fillPos b == 0 && s.completeLen b == 0

/-- Every byte below `B.complete_len` exists (R52). -/
def State.lenInCapacity (s : State) (b : BufName) : Bool :=
  decide ((s.completeLen b).toNat ≤ Config.capacity)

/-! ## Queue counters (41_spsc_queue.md) -/

/-- `q_W` (R32). -/
def State.writeIdx (s : State) : Queue → Counter
  | .int => s.intW
  | .req => s.reqW
  | .rsp => s.rspW

/-- `q_R` (R32). -/
def State.readIdx (s : State) : Queue → Counter
  | .int => s.intR
  | .req => s.reqR
  | .rsp => s.rspR

/-- `q_W <- (q_W + 1) mod 2^CTR_W` (R114, R121). -/
def State.bumpWrite (s : State) : Queue → State
  | .int => { s with intW := s.intW + 1 }
  | .req => { s with reqW := s.reqW + 1 }
  | .rsp => { s with rspW := s.rspW + 1 }

/-- `q_R <- (q_R + 1) mod 2^CTR_W` (R114, R121). -/
def State.bumpRead (s : State) : Queue → State
  | .int => { s with intR := s.intR + 1 }
  | .req => { s with reqR := s.reqR + 1 }
  | .rsp => { s with rspR := s.rspR + 1 }

/-- `count(q) = (q_W - q_R) mod 2^CTR_W` (R112). -/
def State.count (s : State) (q : Queue) : Counter := s.writeIdx q - s.readIdx q

/-- `slot_q(i) = i & (N_q - 1)` for a queue of `n` slots (R111). -/
def slotOf (n : Nat) [NeZero n] (i : Counter) : Fin n :=
  Fin.ofNat n (i &&& BitVec.ofNat Config.ctrW (n - 1)).toNat

/-- The working slot of the intercept queue, `slot_INT(INT_W)` (R118). -/
def State.workingSlot (s : State) : Fin Config.nInt := slotOf Config.nInt s.intW

/-- The buffer of the intercept queue's head slot for a channel (R199). -/
def State.intHead (s : State) (c : Chan) : BufName := .int (slotOf Config.nInt s.intR) c

/-- The request HOST is building: the write slot of the request queue (R119). -/
def State.reqTail (s : State) : BufName := .req (slotOf Config.nReq s.reqW)

/-- The head request (R119). -/
def State.reqHead (s : State) : BufName := .req (slotOf Config.nReq s.reqR)

/-- The write slot of the response queue (R120). -/
def State.rspTail (s : State) : BufName := .rsp (slotOf Config.nRsp s.rspW)

/-- The head response (R202). -/
def State.rspHead (s : State) : BufName := .rsp (slotOf Config.nRsp s.rspR)

/-! ## The environment's next move -/

/-- The move the next step is: the first of the tape, and a free one where the tape is empty. -/
def State.move (s : State) : Move :=
  match s.tape with
  | m :: _ => m
  | [] => Config.freeMove s.moves

/-! ## Faults (60_exceptions.md) -/

/-- Whether a raise of this kind in this step is lost (R62): ERR_LOST_UPDATES holds, the step is the
first of ENGINE or HOST after an ERR_CLEAR, and the draw says so. -/
def State.updateLost (s : State) (k : FaultKind) : Bool :=
  s.errFresh && Config.params.errLostUpdates && s.move.lost.getLsbD k.code

/-- `raise Fault(K)`: `ERR <- ERR | (1 << bit(K))` unless the update is lost (R231, R62). The step
that raises it goes on. -/
def State.raise (s : State) (k : FaultKind) : State :=
  { s with
    err := if s.updateLost k then s.err else s.err ||| k.mask
    out := { s.out with raised := s.out.raised ||| k.mask } }

/-! ## How a step ends -/

/-- `fsm <- S`: how every ENGINE step ends (R10, R26). -/
def State.goto (s : State) (e : EngineState) : State := { s with fsm := e.code, errFresh := false }

/-- `return (st, rdata)`: how every host command ends (R10, R76). -/
def State.hostReturn (s : State) (st : Status) (rdata : Byte) : State :=
  { s with errFresh := false, out := { s.out with result := some { st := st, rdata := rdata } } }

/-- A command without an effect: it returns its status with rdata 0x00 (R76). -/
def State.hostRefuse (s : State) (st : Status) : Host.Outcome State Fault Refusal :=
  .next (s.hostReturn st 0x00)

/-- A CMD32 word with a reserved `op` (R74, R205). -/
def State.hostIllegal (s : State) : Host.Outcome State Fault Refusal := s.hostRefuse .illegal

/-! ## The bus side of the last step -/

/-- What the block drove on XCV's transmit line in the last step: the byte of an exchange, and
XCV_IDLE_TX otherwise (R29). -/
def State.xcvTxLine (s : State) : Byte :=
  match s.out.xcv with
  | some (.exchange b) => b
  | _ => Config.xcvIdleTx

/-- The bits of a byte in the order they are shifted on a synchronous channel (R56). -/
def wireBits (b : Byte) : List Bool :=
  let up := [b.getLsbD 0, b.getLsbD 1, b.getLsbD 2, b.getLsbD 3, b.getLsbD 4, b.getLsbD 5, b.getLsbD 6, b.getLsbD 7]
  match Config.wireBitOrder with
  | .lsbFirst => up
  | .msbFirst => up.reverse

end Sys2Proof.Machine
end

