-- ==== Sys2Proof/Machine/FrameAssembler.lean ====
section
/-! DEFINITION. The frame assembler (40_frame_assembler.md): FA_APPEND and FA_CLEAR as operations on a
named buffer, and as operations of the table. -/

namespace Sys2Proof.Machine

/-- FA_APPEND(B, b): the buffer after it and the outcome (R90, R92). -/
def State.faAppend (s : State) (b : BufName) (x : Byte) : State × FaOutcome :=
  if s.completeLen b ≠ 0 then (s, .rejected)
  else if x = Config.sof then ((s.putByte b 0 Config.sof).setFillPos b 1, .inProgress)
  else if s.fillPos b = 0 then (s, .ignored)
  else if x = Config.eof then
    ((((s.putByte b (s.fillPos b).toNat Config.eof).setCompleteLen b ((s.fillPos b).setWidth 8 + 1)).setFillPos b 0),
      .complete ((s.fillPos b).setWidth 8 + 1))
  else if (s.fillPos b).toNat + 1 = Config.capacity then (s.setFillPos b 0, .overflow)
  else ((s.putByte b (s.fillPos b).toNat x).setFillPos b (s.fillPos b + 1), .inProgress)

/-- FA_CLEAR(B): both cursors 0, the bytes unchanged (R91). -/
def State.faClear (s : State) (b : BufName) : State := s.setCursors b Cursors.idle

/-- Appends a received byte and raises OVERFLOW on that outcome, the duty of every caller (R95). -/
def State.feed (s : State) (b : BufName) (x : Byte) : State × FaOutcome :=
  match s.faAppend b x with
  | (t, .overflow) => (t.raise .overflow, .overflow)
  | r => r

/-- Feeds the byte a channel offers, if it offers one (R131). -/
def State.feedOpt (s : State) (b : BufName) : Option Byte → State × Option FaOutcome
  | none => (s, none)
  | some x => ((s.feed b x).1, some (s.feed b x).2)

/-- FA_APPEND as an operation of the table: on the buffer that its issuer names, with the outcome
returned and no fault raised (R80, R90). -/
def execFaAppend (byte : Byte) (s : State) : Host.Outcome State Fault Refusal :=
  let r := s.faAppend s.faBuf byte
  .next { r.1 with out := { r.1.out with fa := some r.2 } }

/-- FA_CLEAR as an operation of the table (R80, R91). -/
def execFaClear (s : State) : Host.Outcome State Fault Refusal := .next (s.faClear s.faBuf)

end Sys2Proof.Machine
end

