-- ==== Sys2Proof/Machine/SpscQueue.lean ====
section
/-! DEFINITION. The queue primitives (41_spsc_queue.md). Each is issued inside an ENGINE step or a host
command. A step is one atomic transition (20_memory.md rule R59), so the barriers of rule R60 order
nothing inside it and have no effect of their own (R117). -/

namespace Sys2Proof.Machine

/-- The producer finds the queue full: REQ and RSP when the count is N_q; INT when the count is not below
N_INT - 1, since its working slot is filled in place (R112, R115, R118). -/
def State.qFull (s : State) : Queue → Bool
  | .int => decide (Config.nInt - 1 ≤ (s.count .int).toNat)
  | .req => decide ((s.count .req).toNat = Config.nReq)
  | .rsp => decide ((s.count .rsp).toNat = Config.nRsp)

/-- The consumer finds the queue empty (R112). -/
def State.qEmpty (s : State) (q : Queue) : Bool := s.count q == 0

/-- Q_PUBLISH(q) (R115). -/
def State.qPublish (s : State) (q : Queue) : State := s.bumpWrite q

/-- The buffers of the head slot are cleared: both of INT's pair, the one of REQ and RSP (R116). -/
def State.clearHead (s : State) : Queue → State
  | .int => (s.faClear (s.intHead .up)).faClear (s.intHead .dn)
  | .req => s.faClear s.reqHead
  | .rsp => s.faClear s.rspHead

/-- Q_RELEASE(q) (R116). -/
def State.qRelease (s : State) (q : Queue) : State := (s.clearHead q).bumpRead q

/-- Copies bytes 0 .. n-1 of one buffer into another, in that order (R120). -/
def State.copyBytes (s : State) (src dst : BufName) : Nat → State
  | 0 => s
  | n + 1 => (s.copyBytes src dst n).putByte dst n ((s.copyBytes src dst n).byteAt src n)

/-- RSP_PUSH(S) (R120): a copy of a complete buffer enters the response queue, or BP_RSP is raised and
the copy dropped. A length beyond the capacity names bytes that do not exist (R52). -/
def State.rspPush (s : State) (src : BufName) : Except Fault State :=
  if s.qFull .rsp then .ok (s.raise .bpRsp)
  else if s.lenInCapacity src then
    .ok (((s.copyBytes src s.rspTail (s.completeLen src).toNat).setCursors s.rspTail
      { fillPos := 0, completeLen := s.completeLen src }).qPublish .rsp)
  else .error .noSuchByte

end Sys2Proof.Machine
end

