-- ==== Sys2Proof/Machine/HostPort.lean ====
section
/-! DEFINITION. The host commands (44_host_port.md). Field checks come before queue checks in every
command (D30), and every command ends by returning its result (R76, R190). -/

namespace Sys2Proof.Machine

/-- NOP (R191). -/
def execNop (s : State) : Host.Outcome State Fault Refusal := .next (s.hostReturn .ok 0x00)

/-- RDREG (R192): one byte lane of a register. -/
def execRdreg (sel idx : Byte) (s : State) : Host.Outcome State Fault Refusal :=
  match regOfSel sel with
  | some r =>
    if idx.toNat ≤ 3 then .next (s.hostReturn .ok (laneOf (s.regValue s.move.ready r) idx.toNat))
    else s.hostRefuse .range
  | none => s.hostRefuse .range

/-- WRREG (R193): only CFG is writable. -/
def execWrreg (sel data : Byte) (s : State) : Host.Outcome State Fault Refusal :=
  match regOfSel sel with
  | some .cfg => .next ({ s with cfg := cfgWritten data }.hostReturn .ok 0x00)
  | some _ => s.hostRefuse .illegal
  | none => s.hostRefuse .range

/-- ERR_CLEAR (R194): returns the old value; the next ENGINE or HOST step is the first after it (R62). -/
def execErrClear (s : State) : Host.Outcome State Fault Refusal :=
  .next { { s with err := 0x00 }.hostReturn .ok s.err with errFresh := true }

/-- QCOUNT (R195). -/
def execQcount (sel : Byte) (s : State) : Host.Outcome State Fault Refusal :=
  match queueOfSel sel with
  | some q => .next (s.hostReturn .ok ((s.count q).setWidth 8))
  | none => s.hostRefuse .range

/-- REQ_WRITE (R196). -/
def execReqWrite (idx data : Byte) (s : State) : Host.Outcome State Fault Refusal :=
  if idx.toNat ≤ 127 then
    if s.qFull .req then s.hostRefuse .full
    else .next ((s.putByte s.reqTail idx.toNat data).hostReturn .ok 0x00)
  else s.hostRefuse .range

/-- REQ_SETLEN (R197). -/
def execReqSetlen (data : Byte) (s : State) : Host.Outcome State Fault Refusal :=
  if data.toNat ≤ Config.capacity then
    if s.qFull .req then s.hostRefuse .full
    else .next ((s.setCompleteLen s.reqTail data).hostReturn .ok 0x00)
  else s.hostRefuse .range

/-- REQ_PUBLISH (R198): BP_REQ when the queue is full. -/
def execReqPublish (s : State) : Host.Outcome State Fault Refusal :=
  if s.qFull .req then (s.raise .bpReq).hostRefuse .full
  else .next ((s.qPublish .req).hostReturn .ok 0x00)

/-- The byte of a head buffer that a command reads: only a complete frame is readable (R199, R202). -/
def State.readFrame (s : State) (b : BufName) (idx : Byte) : Host.Outcome State Fault Refusal :=
  if idx.toNat < (s.completeLen b).toNat then .next (s.hostReturn .ok (s.byteAt b idx.toNat))
  else s.hostRefuse .range

/-- INT_READ (R199). -/
def execIntRead (sel idx : Byte) (s : State) : Host.Outcome State Fault Refusal :=
  match chanOfSel sel with
  | some c =>
    if idx.toNat ≤ 127 then
      if s.qEmpty .int then s.hostRefuse .empty else s.readFrame (s.intHead c) idx
    else s.hostRefuse .range
  | none => s.hostRefuse .range

/-- INT_LEN (R200). -/
def execIntLen (sel : Byte) (s : State) : Host.Outcome State Fault Refusal :=
  match chanOfSel sel with
  | some c =>
    if s.qEmpty .int then s.hostRefuse .empty
    else .next (s.hostReturn .ok (s.completeLen (s.intHead c)))
  | none => s.hostRefuse .range

/-- INT_RELEASE (R201). -/
def execIntRelease (s : State) : Host.Outcome State Fault Refusal :=
  if s.qEmpty .int then s.hostRefuse .empty else .next ((s.qRelease .int).hostReturn .ok 0x00)

/-- RSP_READ (R202). -/
def execRspRead (idx : Byte) (s : State) : Host.Outcome State Fault Refusal :=
  if idx.toNat ≤ 127 then
    if s.qEmpty .rsp then s.hostRefuse .empty else s.readFrame s.rspHead idx
  else s.hostRefuse .range

/-- RSP_LEN (R203). -/
def execRspLen (s : State) : Host.Outcome State Fault Refusal :=
  if s.qEmpty .rsp then s.hostRefuse .empty else .next (s.hostReturn .ok (s.completeLen s.rspHead))

/-- RSP_RELEASE (R204). -/
def execRspRelease (s : State) : Host.Outcome State Fault Refusal :=
  if s.qEmpty .rsp then s.hostRefuse .empty else .next ((s.qRelease .rsp).hostReturn .ok 0x00)

end Sys2Proof.Machine
end

