-- ==== Sys2Proof/Machine/Injector.lean ====
section
/-! DEFINITION. The bus injector: the ENGINE steps S_EVAL to S_ABORT (43_bus_injector.md). A step that
`hold until` keeps from running leaves the state as it is: the ENGINE stays where it is until another
agent's step or the bus lifts the hold (R10, R168; log entry 6). -/

namespace Sys2Proof.Machine

/-- The preconditions of a transaction: the working pair is idle, a request is queued, and the device
is ready (R151). -/
def State.mayInject (s : State) : Bool :=
  s.idle (.int s.workingSlot .up) && s.idle (.int s.workingSlot .dn) && !s.qEmpty .req && s.move.ready

/-- S_EVAL (R151). -/
def execSEval (s : State) : Host.Outcome State Fault Refusal :=
  if s.mayInject then .next ({ s with arb := true, t0 := s.now }.goto .guard) else .next (s.goto .snoop)

/-- The ticks since T0: `(NOW - T0) mod 2^NOW_W` (R152, R162). -/
def State.elapsed (s : State) : Nat := (s.now - s.t0).toNat

/-- S_GUARD (R152): held until the guard time has passed. -/
def execSGuard (s : State) : Host.Outcome State Fault Refusal :=
  if s.elapsed < Config.params.guardTicks then .next s
  else if s.move.ready then .next (s.goto .validate)
  else .next ({ s with arb := false }.goto .snoop)

/-- The head request begins with SOF and ends with EOF (R153). -/
def State.requestFramed (s : State) : Bool :=
  s.completeLen s.reqHead != 0 && s.byteAt s.reqHead 0 == Config.sof &&
    s.byteAt s.reqHead ((s.completeLen s.reqHead).toNat - 1) == Config.eof

/-- `XCV.flush()`: the received bytes that the platform has buffered are discarded (R29, R166). -/
def State.xcvFlush (s : State) : State := { s with xcvRx := [], out := { s.out with xcv := some .flush } }

/-- S_VALIDATE (R153). -/
def execSValidate (s : State) : Host.Outcome State Fault Refusal :=
  if s.lenInCapacity s.reqHead then
    if s.requestFramed then .next ({ s.xcvFlush with attnN := false, txi := 0 }.goto .tx)
    else .next ({ (s.raise .framing).qRelease .req with arb := false }.goto .snoop)
  else .fault .noSuchByte

/-- `XCV.exchange(b)`: the byte is transmitted; the loopback byte is discarded (R29, R154). -/
def State.xcvSend (s : State) (b : Byte) : State := { s with out := { s.out with xcv := some (.exchange b) } }

/-- S_TX (R154): held until the bus master clocks one byte; no deadline applies (R164). -/
def execSTx (s : State) : Host.Outcome State Fault Refusal :=
  match s.move.clock with
  | none => .next s
  | some _ =>
    if s.txi.toNat < Config.capacity then
      let sent := { s.xcvSend (s.byteAt s.reqHead s.txi.toNat) with txi := s.txi + 1 }
      if s.txi + 1 = s.completeLen s.reqHead then .next ({ sent.faClear .cap with t0 := s.now }.goto .cap)
      else .next (sent.goto .tx)
    else .fault .noSuchByte

/-- The deadline is reached (R162). -/
def State.deadline (s : State) : Bool := decide (Config.params.timeoutTicks ≤ s.elapsed)

/-- The end of an S_CAP step whose byte completed no frame: the deadline test (R155, R162). -/
def State.capDeadline (s : State) : State :=
  if s.deadline then (s.raise .timeout).goto .abort else s.goto .cap

/-- A received byte is filtered: a null while CAP holds exactly the start marker (R163). -/
def State.glitch (s : State) (x : Byte) : Bool := x == 0x00 && s.fillPos .cap == 1

/-- S_CAP (R155): one poll of XCV, the oldest byte it has received and not delivered if there is one. -/
def execSCap (s : State) : Host.Outcome State Fault Refusal :=
  match s.xcvRx with
  | [] => .next s.capDeadline
  | x :: rest =>
    let polled := { s with xcvRx := rest }
    if polled.glitch x then .next (polled.raise .glitch).capDeadline
    else
      match polled.feed .cap x with
      | (t, .complete _) => .next (t.goto .commit)
      | (t, _) => .next t.capDeadline

/-- S_COMMIT (R156). -/
def execSCommit (s : State) : Host.Outcome State Fault Refusal :=
  match { s with arb := false, attnN := true }.rspPush .cap with
  | .ok t => .next (((t.qRelease .req).faClear .cap).goto .snoop)
  | .error f => .fault f

/-- S_ABORT (R157). -/
def execSAbort (s : State) : Host.Outcome State Fault Refusal :=
  .next (({ s with arb := false, attnN := true }.faClear .cap).goto .snoop)

end Sys2Proof.Machine
end

