-- ==== Sys2Proof/Machine/Snooper.lean ====
section
/-! DEFINITION. The bus snooper: the ENGINE step S_SNOOP (42_bus_snooper.md). -/

namespace Sys2Proof.Machine

/-- One frame of the pair is mirrored: not the UP frame under NOREQ, and not a buffer that holds no
complete frame (R133). -/
def State.mirrorOne (s : State) (w : Fin Config.nInt) (c : Chan) : Except Fault State :=
  if c = .up ∧ s.noReq = true then .ok s
  else if s.completeLen (.int w c) ≠ 0 then s.rspPush (.int w c)
  else .ok s

/-- MIRROR(w): the pair's complete frames are copied into the response queue, in the order of
MIRROR_ORDER (R133). -/
def State.mirror (s : State) (w : Fin Config.nInt) : Except Fault State :=
  match Config.params.mirrorOrder with
  | .upFirst => (s.mirrorOne w .up).bind (fun t => t.mirrorOne w .dn)
  | .dnFirst => (s.mirrorOne w .dn).bind (fun t => t.mirrorOne w .up)

/-- The pair of the working slot is published, after any mirroring (R132, R133). -/
def State.publishPair (s : State) (w : Fin Config.nInt) : Except Fault State :=
  if s.route then (s.mirror w).map (fun t => t.qPublish .int) else .ok (s.qPublish .int)

/-- The publish is refused: BP_INT is raised and the working pair cleared (R134). -/
def State.dropPair (s : State) (w : Fin Config.nInt) : State :=
  ((s.raise .bpInt).faClear (.int w .up)).faClear (.int w .dn)

/-- S_SNOOP (R130 to R135): the bytes both channels offer are fed, then the pair is published or
dropped if the UP frame completed in this step. -/
def execSSnoop (s : State) : Host.Outcome State Fault Refusal :=
  let w := s.workingSlot
  let fedUp := s.feedOpt (.int w .up) s.move.up
  let fed := (fedUp.1.feedOpt (.int w .dn) s.move.dn).1
  match fedUp.2 with
  | some (.complete _) =>
    if fed.qFull .int then .next ((fed.dropPair w).goto .eval)
    else
      match fed.publishPair w with
      | .ok t => .next (t.goto .eval)
      | .error f => .fault f
  | _ => .next (fed.goto .eval)

end Sys2Proof.Machine
end

