-- ==== Sys2Proof/Machine/Dispatch.lean ====
section
/-! DEFINITION. The dispatch: one arm per operation of the table, each one direct call of its meaning. -/

namespace Sys2Proof.Machine

def exec (i : Instr) (s : State) : Host.Outcome State Fault Refusal :=
  match i with
  | .nop => Sys2Proof.Machine.execNop s
  | .rdreg sel idx => Sys2Proof.Machine.execRdreg sel idx s
  | .wrreg sel data => Sys2Proof.Machine.execWrreg sel data s
  | .errClear => Sys2Proof.Machine.execErrClear s
  | .qcount sel => Sys2Proof.Machine.execQcount sel s
  | .reqWrite idx data => Sys2Proof.Machine.execReqWrite idx data s
  | .reqSetlen data => Sys2Proof.Machine.execReqSetlen data s
  | .reqPublish => Sys2Proof.Machine.execReqPublish s
  | .intRead sel idx => Sys2Proof.Machine.execIntRead sel idx s
  | .intLen sel => Sys2Proof.Machine.execIntLen sel s
  | .intRelease => Sys2Proof.Machine.execIntRelease s
  | .rspRead idx => Sys2Proof.Machine.execRspRead idx s
  | .rspLen => Sys2Proof.Machine.execRspLen s
  | .rspRelease => Sys2Proof.Machine.execRspRelease s
  | .sSnoop => Sys2Proof.Machine.execSSnoop s
  | .sEval => Sys2Proof.Machine.execSEval s
  | .sGuard => Sys2Proof.Machine.execSGuard s
  | .sValidate => Sys2Proof.Machine.execSValidate s
  | .sTx => Sys2Proof.Machine.execSTx s
  | .sCap => Sys2Proof.Machine.execSCap s
  | .sCommit => Sys2Proof.Machine.execSCommit s
  | .sAbort => Sys2Proof.Machine.execSAbort s
  | .faAppend byte => Sys2Proof.Machine.execFaAppend byte s
  | .faClear => Sys2Proof.Machine.execFaClear s

end Sys2Proof.Machine
end

