-- ==== Sys2Proof/Machine/Schedule.lean ====
section
/-! DEFINITION. Which agent moves and what it executes (00_scope.md rules R5, R11; 60_exceptions.md
rules R238, R239): choosing the next operation, what a step receives before it and leaves after it,
and placing an instruction where the next step finds it. -/

namespace Sys2Proof.Machine

/-- What the next step is. -/
inductive Fetched where
  /-- An ENGINE step or a host command. -/
  | run (i : Instr)
  /-- A frame-assembler operation on its own (log entry 10). -/
  | runFa (i : Instr)
  /-- A CMD32 word with a reserved `op` (R74). -/
  | illegal
  /-- A TIMER step of `extra + 1` ticks (R31). -/
  | tick (extra : Nat)
  /-- HOST moves while SCHED does not enable its step (R238). -/
  | hold
  /-- ENGINE moves while FSM holds a reserved code (R79). -/
  | badState
  deriving DecidableEq, Repr

/-- A HOST step is enabled: while FSM = S_SNOOP, and under DUAL always (R190, R238). -/
def State.hostEnabled (s : State) : Bool :=
  s.fsm == EngineState.snoop.code || Config.params.sched == .dual

/-- What the agent that moves executes. -/
def State.fetchTurn (s : State) : Turn → Fetched
  | .engine =>
    match decodeFsm4 s.fsm with
    | .ok i => .run i
    | .error _ => .badState
  | .host w =>
    if s.hostEnabled then
      match decodeCmd32 w with
      | .ok i => .run i
      | .error _ => .illegal
    else .hold
  | .timer extra => .tick extra

/-- What the next step executes. -/
def State.fetch (s : State) : Fetched :=
  match s.faWord with
  | some w => .runFa (decodeFa9 w)
  | none => s.fetchTurn s.move.turn

/-- A step begins: nothing shown yet, and the bytes XCV has received join the platform's buffer (R37). -/
def State.beginStep (s : State) : State :=
  { s with xcvRx := s.xcvRx ++ s.move.xcvIn, out := Out.none }

/-- A step ends: its move is behind. -/
def State.endStep (s : State) : State := { s with tape := s.tape.tail, moves := s.moves + 1 }

/-- A TIMER step: `NOW <- (NOW + d) mod 2^NOW_W` (R31). -/
def State.tick (s : State) (extra : Nat) : State := { s with now := s.now + BitVec.ofNat 64 (extra + 1) }

/-- Applies the step's end to a next state. -/
def endOutcome (f : State → State) : Host.Outcome State Fault Refusal → Host.Outcome State Fault Refusal
  | .next t => .next (f t)
  | .fault r => .fault r
  | .refused r => .refused r

/-- The step's end for a frame-assembler operation on its own: its word is consumed. -/
def State.endFa (s : State) : State := { s with faWord := none }

/-- The first move is the given agent's, with the draws the tape lists for it, and a quiet bus where it
lists none. -/
def State.placeTurn (s : State) (t : Turn) : State :=
  match s.tape with
  | m :: rest => { s with faWord := none, tape := { m with turn := t } :: rest }
  | [] => { s with faWord := none, tape := [Move.quiet t] }

/-- An instruction is placed where the next step finds it: a CMD32 word is HOST's move, with FSM set to
S_SNOOP where SCHED does not enable it; an FSM4 code is FSM's value and the move is ENGINE's; an FA9 word is
the one to be executed on its own (log entry 17). -/
def State.placeWord (s : State) : CodeWord → State
  | .cmd32 w =>
    if s.hostEnabled then s.placeTurn (.host w)
    else { s with fsm := EngineState.snoop.code }.placeTurn (.host w)
  | .fsm4 c => { s with fsm := c }.placeTurn .engine
  | .fa9 w => { s with faWord := some w }

end Sys2Proof.Machine
end

