-- ==== Sys2Proof/Machine/Step.lean ====
section
/-! DEFINITION. One step of the machine: one atomic transition of one agent (20_memory.md rule R59). -/

namespace Sys2Proof.Machine

/-- One step. -/
def step (s : State) : Host.Outcome State Fault Refusal :=
  match s.fetch with
  | .run i => endOutcome State.endStep (exec i s.beginStep)
  | .runFa i => endOutcome State.endFa (exec i { s with out := Out.none })
  | .illegal => endOutcome State.endStep s.beginStep.hostIllegal
  | .tick extra => .next (s.beginStep.tick extra).endStep
  | .hold => .next s.beginStep.endStep
  | .badState => .fault .badState

/-- `s` with the instruction whose table bits are `w` where the next step executes it. -/
def State.withFetchWord (s : State) (nbits w : Nat) : State := s.placeWord (wordOfBits nbits w)

end Sys2Proof.Machine
end

