-- ==== Sys2Proof/Machine/Assembler.lean ====
section
/-! DEFINITION. The assembler syntax of CMD32 and its pseudo-instructions (30_encoding.md rules R82, R84). -/

namespace Sys2Proof.Machine

/-- The name of a register operand (R82). -/
def RegName.text : RegName → String
  | .err => "ERR"
  | .cfg => "CFG"
  | .status => "STATUS"
  | .intW => "INT_W"
  | .intR => "INT_R"
  | .reqW => "REQ_W"
  | .reqR => "REQ_R"
  | .rspW => "RSP_W"
  | .rspR => "RSP_R"

/-- The name of a queue operand (R82). -/
def Queue.text : Queue → String
  | .int => "INT"
  | .req => "REQ"
  | .rsp => "RSP"

/-- The name of a channel operand (R82). -/
def Chan.text : Chan → String
  | .up => "UP"
  | .dn => "DN"

/-- A number operand, in decimal (R82). -/
def numText (b : Byte) : String := toString b.toNat

/-- A selector operand: its name in the table of R77, and its number where the table has none (R82). -/
def selText (name : Option String) (sel : Byte) : String := name.getD (numText sel)

/-- The operand texts of a command, in the order sel, idx, data, only the fields it uses (R82). The
other formats have no assembler syntax. -/
def operandTexts : Instr → List String
  | .nop => []
  | .rdreg sel idx => [selText ((regOfSel sel).map RegName.text) sel, numText idx]
  | .wrreg sel data => [selText ((regOfSel sel).map RegName.text) sel, numText data]
  | .errClear => []
  | .qcount sel => [selText ((queueOfSel sel).map Queue.text) sel]
  | .reqWrite idx data => [numText idx, numText data]
  | .reqSetlen data => [numText data]
  | .reqPublish => []
  | .intRead sel idx => [selText ((chanOfSel sel).map Chan.text) sel, numText idx]
  | .intLen sel => [selText ((chanOfSel sel).map Chan.text) sel]
  | .intRelease => []
  | .rspRead idx => [numText idx]
  | .rspLen => []
  | .rspRelease => []
  | .sSnoop => []
  | .sEval => []
  | .sGuard => []
  | .sValidate => []
  | .sTx => []
  | .sCap => []
  | .sCommit => []
  | .sAbort => []
  | .faAppend _ => []
  | .faClear => []

/-- The mnemonic of an operation, as the opcode table spells it (R73, R78, R80). -/
def mnemonicOf : Instr → String
  | .nop => "NOP"
  | .rdreg _ _ => "RDREG"
  | .wrreg _ _ => "WRREG"
  | .errClear => "ERR_CLEAR"
  | .qcount _ => "QCOUNT"
  | .reqWrite _ _ => "REQ_WRITE"
  | .reqSetlen _ => "REQ_SETLEN"
  | .reqPublish => "REQ_PUBLISH"
  | .intRead _ _ => "INT_READ"
  | .intLen _ => "INT_LEN"
  | .intRelease => "INT_RELEASE"
  | .rspRead _ => "RSP_READ"
  | .rspLen => "RSP_LEN"
  | .rspRelease => "RSP_RELEASE"
  | .sSnoop => "S_SNOOP"
  | .sEval => "S_EVAL"
  | .sGuard => "S_GUARD"
  | .sValidate => "S_VALIDATE"
  | .sTx => "S_TX"
  | .sCap => "S_CAP"
  | .sCommit => "S_COMMIT"
  | .sAbort => "S_ABORT"
  | .faAppend _ => "FA_APPEND"
  | .faClear => "FA_CLEAR"

/-- The operands after the mnemonic: separated by commas (R82). -/
def joinOperands : List String → String
  | [] => ""
  | [x] => " " ++ x
  | x :: y :: rest => " " ++ x ++ "," ++ joinOperands (y :: rest)

/-- A command as one line of assembler text (R82). -/
def asmText (i : Instr) : String := mnemonicOf i ++ joinOperands (operandTexts i)

/-- The pseudo-instructions (R84). A value that an expansion reads on the way (the CFG byte of
CFG_TOGGLE, the lengths of INT_TAKE and RSP_TAKE) is an argument. Operands that R84 does not admit can be
written too; what they expand to is the model's choice (log entry 19). -/
inductive Pseudo where
  | errRead
  | idxRead (sel : Byte)
  | cfgWrite (v : Byte)
  | cfgToggle (m read : Byte)
  | reqSend (bytes : List Byte)
  | intTake (upLen dnLen : Nat)
  | rspTake (len : Nat)
  deriving DecidableEq, Repr

/-- REQ_WRITE of each byte at its place, from place `i` on (R84). Beyond place 255 the index is taken
modulo 256, which only a byte list that R84 does not admit reaches (DESIGN CHOICE, log entry 19). -/
def reqWrites (i : Nat) : List Byte → List Instr
  | [] => []
  | b :: rest => .reqWrite (BitVec.ofNat 8 i) b :: reqWrites (i + 1) rest

/-- The commands a pseudo-instruction expands to (R84). The sequence is not atomic.
DESIGN CHOICE (log entry 19): R84 limits REQ_SEND to 1 to 128 bytes and IDX_READ to the six index
registers, and says nothing of other operands. The model expands REQ_SEND of any byte list, with its
indices and its length modulo 256, IDX_READ of any selector, and INT_TAKE and RSP_TAKE of any length, by
the same pattern. -/
def expandPseudo : Pseudo → List Instr
  | .errRead => [.rdreg 0x00 0]
  | .idxRead sel => [.rdreg sel 0, .rdreg sel 1, .rdreg sel 2, .rdreg sel 3]
  | .cfgWrite v => [.wrreg 0x01 v]
  | .cfgToggle m read => [.rdreg 0x01 0, .wrreg 0x01 (read ^^^ m)]
  | .reqSend bytes => reqWrites 0 bytes ++ [.reqSetlen (BitVec.ofNat 8 bytes.length), .reqPublish]
  | .intTake upLen dnLen =>
    [.intLen 0x00, .intLen 0x01] ++ (List.range upLen).map (fun i => .intRead 0x00 (BitVec.ofNat 8 i)) ++
      (List.range dnLen).map (fun i => .intRead 0x01 (BitVec.ofNat 8 i)) ++ [.intRelease]
  | .rspTake len =>
    [.rspLen] ++ (List.range len).map (fun i => .rspRead (BitVec.ofNat 8 i)) ++ [.rspRelease]

end Sys2Proof.Machine
end

