-- ==== Sys2Proof/Safety.lean ====
section
/-! DEFINITION. What a sound state of the block is: the invariants that the rules claim at every step
boundary (10_state.md R22; 20_memory.md R61; 40_frame_assembler.md R94; 41_spsc_queue.md R113;
43_bus_injector.md R159, R160, R165), named parts first. -/

namespace Sys2Proof.Machine

/-- The source's buffer invariant (R22, R94), with the lengths R93 allows. -/
def FrameOk (s : State) (b : BufName) : Prop :=
  (s.completeLen b ≠ 0 →
    2 ≤ (s.completeLen b).toNat ∧ (s.completeLen b).toNat ≤ Config.capacity ∧ s.fillPos b = 0 ∧
      s.byteAt b 0 = Config.sof ∧ s.byteAt b ((s.completeLen b).toNat - 1) = Config.eof) ∧
  (s.fillPos b ≠ 0 → s.completeLen b = 0 ∧ s.byteAt b 0 = Config.sof)

/-- The frame assembler's buffers: every buffer but those of the request queue (R22). -/
def BufName.isReq : BufName → Bool
  | .int _ _ => false
  | .req _ => true
  | .rsp _ => false
  | .cap => false

/-- Slot `i` of a queue of `n` slots is published: it is `(q_R + j) mod n` for some j < count(q) (R61). -/
def State.slotPublished (s : State) (q : Queue) (n i : Nat) : Bool :=
  decide ((i + n - (s.readIdx q).toNat % n) % n < (s.count q).toNat)

/-- FSM's code is one of the eight states (R26, R79). -/
def State.fsmLegal (s : State) : Bool := decide (s.fsm.toNat < 8)

/-- The bus outputs' windows (R159, R160). -/
def State.busWindows (s : State) : Bool :=
  s.arb == decide (2 ≤ s.fsm.toNat) && s.attnN == decide (s.fsm.toNat < 4)

/-- The reserved bits read 0: bit 7 of ERR, bits 7:2 of CFG (R23, R24). -/
def State.reservedZero (s : State) : Bool := s.err &&& 0x80 == 0 && s.cfg &&& 0xFC == 0

/-- The queue bounds (R113). -/
def State.countsBounded (s : State) : Bool :=
  decide ((s.count .int).toNat ≤ Config.nInt - 1) && decide ((s.count .req).toNat ≤ Config.nReq) &&
    decide ((s.count .rsp).toNat ≤ Config.nRsp)

/-- The invariant of a run of the block. -/
structure Inv (s : State) : Prop where
  /-- Storage is canonical. -/
  mem : s.mem.wf = true
  /-- No operation is presented on its own (R80: no port carries FA9). -/
  faWord : s.faWord = none
  /-- FSM holds one of its eight codes. -/
  fsm : s.fsmLegal = true
  /-- ARB and ATTN_N are asserted exactly in their windows. -/
  bus : s.busWindows = true
  /-- Reserved bits are 0. -/
  reserved : s.reservedZero = true
  /-- No queue is over-committed. -/
  counts : s.countsBounded = true
  /-- Every buffer the frame assembler writes holds its invariant. -/
  frames : ∀ b : BufName, b.isReq = false → FrameOk s b
  /-- A request buffer is never filling, and its length is at most the capacity. -/
  requests : ∀ i, s.fillPos (.req i) = 0 ∧ (s.completeLen (.req i)).toNat ≤ Config.capacity
  /-- A published response is complete; a free response slot is idle. -/
  responses : ∀ i, if s.slotPublished .rsp Config.nRsp i.val then s.completeLen (.rsp i) ≠ 0
    else s.idle (.rsp i) = true
  /-- The UP frame of a published pair is complete, and that of any other pair is not. -/
  pairs : ∀ i, if s.slotPublished .int Config.nInt i.val then s.completeLen (.int i .up) ≠ 0
    else s.completeLen (.int i .up) = 0
  /-- A pair that is neither published nor the working pair is idle. -/
  freePairs : ∀ i c, s.slotPublished .int Config.nInt i.val = false → i ≠ s.workingSlot →
    s.idle (.int i c) = true
  /-- The working pair is not published (R118). -/
  working : s.slotPublished .int Config.nInt s.workingSlot.val = false
  /-- CAP is idle outside capture, complete exactly in S_COMMIT. -/
  capture : (s.fsm.toNat < 5 → s.idle .cap = true) ∧ (s.completeLen .cap ≠ 0 ↔ s.fsm = EngineState.commit.code)
  /-- A transaction has a request at the head (R151). -/
  transaction : 2 ≤ s.fsm.toNat → s.count .req ≠ 0
  /-- After validation the head request is framed (R153). -/
  validated : 4 ≤ s.fsm.toNat → s.requestFramed = true
  /-- In S_TX a byte of the request is left to send (R154). -/
  sending : s.fsm = EngineState.tx.code → s.txi.toNat < (s.completeLen s.reqHead).toNat

/-! ## Words for the statements -/

/-- The state in which a host command has returned `(st, rdata)` and changed nothing else (R76): the
record of R62 says that no ERR_CLEAR came just before, and the result is shown. -/
def answer (s : State) (st : Status) (rdata : Byte) : State :=
  { s with errFresh := false, out := { s.out with result := some { st := st, rdata := rdata } } }

/-- A fault kind's ERR after a raise, by its bit: the bit joins ERR unless R62 lets the update be lost. -/
def errAfter (s : State) (bit : Nat) : BitVec 8 :=
  if Config.params.errLostUpdates = true ∧ s.errFresh = true ∧ s.move.lost.getLsbD bit = true then s.err
  else s.err ||| (1#8 <<< bit)

/-- Everything a run can observe of the block but storage, cursors, ERR, the RSP and INT write indices
and FSM is as before (what S_SNOOP never writes). -/
def SameBusAndHost (s t : State) : Prop :=
  t.cfg = s.cfg ∧ t.arb = s.arb ∧ t.attnN = s.attnN ∧ t.intR = s.intR ∧ t.reqW = s.reqW ∧ t.reqR = s.reqR ∧
    t.rspR = s.rspR ∧ t.txi = s.txi ∧ t.t0 = s.t0 ∧ t.now = s.now ∧ t.xcvRx = s.xcvRx ∧ t.tape = s.tape ∧
    t.moves = s.moves ∧ t.faWord = s.faWord ∧ t.faBuf = s.faBuf

/-- The bytes and cursors of a buffer are as before. -/
def SameBuffer (s t : State) (b : BufName) : Prop :=
  t.cursorsOf b = s.cursorsOf b ∧ ∀ j, j < Config.capacity → t.byteAt b j = s.byteAt b j

/-- The byte offered to a buffer, if one is, is appended by FA_APPEND, and OVERFLOW (bit 1) is raised
exactly on the outcome Overflow (R95, R131). -/
def fedWith (s : State) (b : BufName) : Option Byte → State
  | none => s
  | some x =>
    let t := (s.faAppend b x).1
    if (s.faAppend b x).2 = .overflow then
      { t with err := errAfter t 1, out := { t.out with raised := t.out.raised ||| 0x02 } }
    else t

/-- The outcome of FA_APPEND on the byte offered to a buffer, if one is (R130). -/
def offerOutcome (s : State) (b : BufName) (offer : Option Byte) : Option FaOutcome :=
  offer.map (fun x => (s.faAppend b x).2)

/-- The frames of the pair in slot `w` that a mirror copies, in the order of MIRROR_ORDER: not the UP
frame under NOREQ, and no buffer that holds no complete frame (R133). -/
def mirroredFrames (s : State) (w : Fin Config.nInt) : List Chan :=
  (if Config.params.mirrorOrder = .upFirst then [Chan.up, Chan.dn] else [Chan.dn, Chan.up]).filter
    (fun c => !(c == .up && s.cfg.getLsbD 1) && s.completeLen (.int w c) != 0)

/-- FA_APPEND of a sequence of bytes, the first one first. -/
def appendAll (s : State) (b : BufName) : List Byte → State
  | [] => s
  | x :: rest => appendAll (s.faAppend b x).1 b rest

/-- The bytes of which a frame's inside consists: neither marker (R92: other). -/
def isData (x : Byte) : Bool := x != Config.sof && x != Config.eof

/-- The machine can go on: its next step is neither a fault nor a refusal. -/
def CanStep (s : State) : Prop := ∃ t, step s = .next t

end Sys2Proof.Machine
end

