-- ==== Sys2Proof/Certificates/Slice0/Obligations.lean ====
section
/-! DEFINITION. The statements for the provers. Each follows numbered rules of spec/; a clause that is the
model's own choice says so and names its log entry (notes/assumptions). -/

open Sys2Proof Sys2Proof.Machine

/-! ## Host commands: encoding, result, effect and frame, for every field value and every state -/

/-- R191. -/
def Obligations.NopReturnsOk : Prop :=
  ∀ (sel idx data : Byte) (s : State),
    decodeCmd32 (enc 0x00 sel idx data) = .ok .nop ∧ exec .nop s = .next (answer s .ok 0x00)

/-- R192, with STATUS as R25 lays it out and the registers numbered as R77 has them. -/
def Obligations.RdregReadsOneLane : Prop :=
  ∀ (sel idx data : Byte) (s : State),
    decodeCmd32 (enc 0x01 sel idx data) = .ok (.rdreg sel idx) ∧
    exec (.rdreg sel idx) s =
      if 0x08 < sel.toNat ∨ 3 < idx.toNat then .next (answer s .range 0x00)
      else
        let v : BitVec 32 :=
          match sel.toNat with
          | 0x00 => s.err.setWidth 32
          | 0x01 => s.cfg.setWidth 32
          | 0x02 => (if s.move.ready then 0x40#32 else 0) + (if s.attnN then 0x20#32 else 0) +
              (if s.arb then 0x10#32 else 0) + s.fsm.setWidth 32
          | 0x03 => s.intW
          | 0x04 => s.intR
          | 0x05 => s.reqW
          | 0x06 => s.reqR
          | 0x07 => s.rspW
          | _ => s.rspR
        .next (answer s .ok ((v >>> (8 * idx.toNat)).setWidth 8))

/-- R193. -/
def Obligations.WrregWritesCfgAlone : Prop :=
  ∀ (sel idx data : Byte) (s : State),
    decodeCmd32 (enc 0x02 sel idx data) = .ok (.wrreg sel data) ∧
    exec (.wrreg sel data) s =
      if 0x08 < sel.toNat then .next (answer s .range 0x00)
      else if sel ≠ 0x01 then .next (answer s .illegal 0x00)
      else .next (answer { s with cfg := data &&& 0x03 } .ok 0x00)

/-- R194; that the next ENGINE or HOST step is then the first after an ERR_CLEAR is R62's case, kept in
the model's own field errFresh (log entry 9). -/
def Obligations.ErrClearReturnsOldValue : Prop :=
  ∀ (sel idx data : Byte) (s : State),
    decodeCmd32 (enc 0x03 sel idx data) = .ok .errClear ∧
    exec .errClear s = .next { answer { s with err := 0x00 } .ok s.err with errFresh := true }

/-- R195. -/
def Obligations.QcountReturnsCount : Prop :=
  ∀ (sel idx data : Byte) (s : State),
    decodeCmd32 (enc 0x04 sel idx data) = .ok (.qcount sel) ∧
    exec (.qcount sel) s =
      match sel.toNat with
      | 0x00 => .next (answer s .ok ((s.intW - s.intR).setWidth 8))
      | 0x01 => .next (answer s .ok ((s.reqW - s.reqR).setWidth 8))
      | 0x02 => .next (answer s .ok ((s.rspW - s.rspR).setWidth 8))
      | _ => .next (answer s .range 0x00)

/-- R196: one byte of the request being built, no other byte and nothing else. -/
def Obligations.ReqWriteStoresOneByte : Prop :=
  ∀ (sel idx data : Byte) (s : State),
    decodeCmd32 (enc 0x10 sel idx data) = .ok (.reqWrite idx data) ∧
    (127 < idx.toNat → exec (.reqWrite idx data) s = .next (answer s .range 0x00)) ∧
    (idx.toNat ≤ 127 → s.reqW - s.reqR = 1 → exec (.reqWrite idx data) s = .next (answer s .full 0x00)) ∧
    (idx.toNat ≤ 127 → s.reqW - s.reqR ≠ 1 →
      ∃ t, exec (.reqWrite idx data) s = .next t ∧ t = answer { s with mem := t.mem } .ok 0x00 ∧
        t.byteAt (.req 0) idx.toNat = data ∧
        ∀ b j, j < Config.capacity → ¬(b = .req 0 ∧ j = idx.toNat) → t.byteAt b j = s.byteAt b j)

/-- R197: the length of the request being built, and nothing else. -/
def Obligations.ReqSetlenSetsLength : Prop :=
  ∀ (sel idx data : Byte) (s : State),
    decodeCmd32 (enc 0x11 sel idx data) = .ok (.reqSetlen data) ∧
    (128 < data.toNat → exec (.reqSetlen data) s = .next (answer s .range 0x00)) ∧
    (data.toNat ≤ 128 → s.reqW - s.reqR = 1 → exec (.reqSetlen data) s = .next (answer s .full 0x00)) ∧
    (data.toNat ≤ 128 → s.reqW - s.reqR ≠ 1 →
      ∃ t, exec (.reqSetlen data) s = .next t ∧ t = answer { s with cursors := t.cursors } .ok 0x00 ∧
        t.cursorsOf (.req 0) = { fillPos := (s.cursorsOf (.req 0)).fillPos, completeLen := data } ∧
        ∀ b, b ≠ .req 0 → t.cursorsOf b = s.cursorsOf b)

/-- R198; the raise of BP_REQ is bit 5 of ERR, lost only where R62 lets it be. -/
def Obligations.ReqPublishAdvancesOrRefuses : Prop :=
  ∀ (sel idx data : Byte) (s : State),
    decodeCmd32 (enc 0x12 sel idx data) = .ok .reqPublish ∧
    exec .reqPublish s =
      if s.reqW - s.reqR = 1 then
        .next (answer { s with err := errAfter s 5, out := { s.out with raised := s.out.raised ||| 0x20 } } .full 0x00)
      else .next (answer { s with reqW := s.reqW + 1 } .ok 0x00)

/-- R199, R202: a byte of the head pair's buffer and of the head response; only a complete frame is
readable, and field checks come before queue checks. -/
def Obligations.ReadsReturnHeadFrameBytes : Prop :=
  ∀ (sel idx data : Byte) (s : State),
    decodeCmd32 (enc 0x20 sel idx data) = .ok (.intRead sel idx) ∧
    decodeCmd32 (enc 0x30 sel idx data) = .ok (.rspRead idx) ∧
    (exec (.intRead sel idx) s =
      let b : BufName := .int (Fin.ofNat 2 s.intR.toNat) (if sel = 0 then .up else .dn)
      if 0x01 < sel.toNat ∨ 127 < idx.toNat then .next (answer s .range 0x00)
      else if s.intW - s.intR = 0 then .next (answer s .empty 0x00)
      else if (s.completeLen b).toNat ≤ idx.toNat then .next (answer s .range 0x00)
      else .next (answer s .ok (s.byteAt b idx.toNat))) ∧
    (exec (.rspRead idx) s =
      let b : BufName := .rsp (Fin.ofNat 4 s.rspR.toNat)
      if 127 < idx.toNat then .next (answer s .range 0x00)
      else if s.rspW - s.rspR = 0 then .next (answer s .empty 0x00)
      else if (s.completeLen b).toNat ≤ idx.toNat then .next (answer s .range 0x00)
      else .next (answer s .ok (s.byteAt b idx.toNat)))

/-- R200, R203: the frame length of a head buffer. -/
def Obligations.LengthsReturnHeadFrameLengths : Prop :=
  ∀ (sel idx data : Byte) (s : State),
    decodeCmd32 (enc 0x21 sel idx data) = .ok (.intLen sel) ∧
    decodeCmd32 (enc 0x31 sel idx data) = .ok .rspLen ∧
    (exec (.intLen sel) s =
      if 0x01 < sel.toNat then .next (answer s .range 0x00)
      else if s.intW - s.intR = 0 then .next (answer s .empty 0x00)
      else .next (answer s .ok (s.completeLen (.int (Fin.ofNat 2 s.intR.toNat) (if sel = 0 then .up else .dn))))) ∧
    (exec .rspLen s =
      if s.rspW - s.rspR = 0 then .next (answer s .empty 0x00)
      else .next (answer s .ok (s.completeLen (.rsp (Fin.ofNat 4 s.rspR.toNat)))))

/-- R201, R204 with the release of R116: an empty queue answers EMPTY; otherwise the head slot's buffers
are idle, no other buffer changes, and the read index is one more. -/
def Obligations.ReleasesFreeTheHeadSlot : Prop :=
  ∀ (sel idx data : Byte) (s : State),
    decodeCmd32 (enc 0x22 sel idx data) = .ok .intRelease ∧
    decodeCmd32 (enc 0x32 sel idx data) = .ok .rspRelease ∧
    (s.intW - s.intR = 0 → exec .intRelease s = .next (answer s .empty 0x00)) ∧
    (s.intW - s.intR ≠ 0 →
      ∃ t, exec .intRelease s = .next t ∧
        t = answer { s with cursors := t.cursors, intR := s.intR + 1 } .ok 0x00 ∧
        (∀ c, t.cursorsOf (.int (Fin.ofNat 2 s.intR.toNat) c) = Cursors.idle) ∧
        ∀ b, (∀ c, b ≠ .int (Fin.ofNat 2 s.intR.toNat) c) → t.cursorsOf b = s.cursorsOf b) ∧
    (s.rspW - s.rspR = 0 → exec .rspRelease s = .next (answer s .empty 0x00)) ∧
    (s.rspW - s.rspR ≠ 0 →
      ∃ t, exec .rspRelease s = .next t ∧
        t = answer { s with cursors := t.cursors, rspR := s.rspR + 1 } .ok 0x00 ∧
        t.cursorsOf (.rsp (Fin.ofNat 4 s.rspR.toNat)) = Cursors.idle ∧
        ∀ b, b ≠ .rsp (Fin.ofNat 4 s.rspR.toNat) → t.cursorsOf b = s.cursorsOf b)

/-- R72, R77: a field outside the range a command accepts makes it return RANGE with no effect. -/
def Obligations.OutOfRangeFieldHasNoEffect : Prop :=
  ∀ (i : Instr) (s : State), i.inRange = false → exec i s = .next (answer s .range 0x00)

/-- R190: no command waits, and none changes FSM, ARB, ATTN_N, TXI, T0 or CAP; nor NOW or the bus. -/
def Obligations.HostCommandsAnswerAndLeaveTheEngine : Prop :=
  ∀ (i : Instr) (s : State), i.format = .cmd32 →
    ∃ t, exec i s = .next t ∧ t.out.result.isSome = true ∧ t.fsm = s.fsm ∧ t.arb = s.arb ∧
      t.attnN = s.attnN ∧ t.txi = s.txi ∧ t.t0 = s.t0 ∧ SameBuffer s t .cap ∧ t.now = s.now ∧
      t.out.xcv = s.out.xcv ∧ t.xcvRx = s.xcvRx ∧ t.intW = s.intW ∧ t.reqR = s.reqR ∧ t.rspW = s.rspW

/-- R61, R206: no command writes a byte or a cursor of a buffer HOST does not own. HOST owns the head
pair and the head response it releases, and the request slot while the request queue is not full. -/
def Obligations.HostCommandsKeepToOwnedBuffers : Prop :=
  ∀ (i : Instr) (s t : State) (b : BufName), i.format = .cmd32 → exec i s = .next t →
    (∀ c, s.intW - s.intR ≠ 0 → b ≠ .int (Fin.ofNat 2 s.intR.toNat) c) →
    (s.rspW - s.rspR ≠ 0 → b ≠ .rsp (Fin.ofNat 4 s.rspR.toNat)) →
    (s.reqW - s.reqR ≠ 1 → b ≠ .req 0) → SameBuffer s t b

/-- R37, R261: HOST never observes a byte beyond `complete_len`: two states that agree but for such
bytes give every command the same result, and agree after it but for storage. -/
def Obligations.HostCannotObserveStaleBytes : Prop :=
  ∀ (i : Instr) (s : State) (m : Memory), i.format = .cmd32 →
    (∀ b j, j < (s.completeLen b).toNat → ({ s with mem := m } : State).byteAt b j = s.byteAt b j) →
    ∀ t u, exec i s = .next t → exec i { s with mem := m } = .next u →
      u.out.result = t.out.result ∧ u = { t with mem := u.mem }

/-! ## Frame assembler -/

/-- R92: the seven rows of the table, for every buffer, with the bytes written; R90 gives the same. That
the operation of the table runs on its own and acts on the buffer faBuf is the model's choice (log entry
10). -/
def Obligations.FaAppendFollowsTheTable : Prop :=
  ∀ (s : State) (x : Byte),
    (exec (.faAppend x) s =
      .next { (s.faAppend s.faBuf x).1 with out := { s.out with fa := some (s.faAppend s.faBuf x).2 } }) ∧
    ∀ b : BufName,
      let p := s.fillPos b
      let t := (s.faAppend b x).1
      let o := (s.faAppend b x).2
      t = { s with mem := t.mem, cursors := t.cursors } ∧
      (∀ b', b' ≠ b → SameBuffer s t b') ∧
      if s.completeLen b ≠ 0 then o = .rejected ∧ SameBuffer s t b
      else if x = 0xF0 then
        o = .inProgress ∧ t.cursorsOf b = { fillPos := 1, completeLen := 0 } ∧ t.byteAt b 0 = 0xF0 ∧
          ∀ j, 0 < j → j < 128 → t.byteAt b j = s.byteAt b j
      else if p = 0 then o = .ignored ∧ SameBuffer s t b
      else if x = 0xF7 then
        o = .complete (p.setWidth 8 + 1) ∧ t.cursorsOf b = { fillPos := 0, completeLen := p.setWidth 8 + 1 } ∧
          t.byteAt b p.toNat = 0xF7 ∧ ∀ j, j ≠ p.toNat → j < 128 → t.byteAt b j = s.byteAt b j
      else if p = 127 then
        o = .overflow ∧ t.cursorsOf b = Cursors.idle ∧ ∀ j, j < 128 → t.byteAt b j = s.byteAt b j
      else
        o = .inProgress ∧ t.cursorsOf b = { fillPos := p + 1, completeLen := 0 } ∧
          t.byteAt b p.toNat = x ∧ ∀ j, j ≠ p.toNat → j < 128 → t.byteAt b j = s.byteAt b j

/-- R91: both cursors 0; no byte and nothing else changes. That the operation runs on its own and acts on
the buffer faBuf is the model's choice (log entry 10). -/
def Obligations.FaClearIdlesTheBuffer : Prop :=
  ∀ s : State, ∃ t, exec .faClear s = .next t ∧ t = { s with cursors := t.cursors } ∧
    t.cursorsOf s.faBuf = Cursors.idle ∧ ∀ b, b ≠ s.faBuf → t.cursorsOf b = s.cursorsOf b

/-- R94: the buffer invariant holds after FA_APPEND and FA_CLEAR if it held before; with the lengths of R93. -/
def Obligations.FrameAssemblerKeepsItsInvariant : Prop :=
  ∀ (s : State) (b b' : BufName) (x : Byte), FrameOk s b' →
    FrameOk (s.faAppend b x).1 b' ∧ FrameOk (s.faClear b) b'

/-- R93, R54: from idle, a start marker, up to 126 bytes that are no marker and an end marker complete
a frame of exactly that length, whose bytes stand in stream order. -/
def Obligations.MarkedSequenceCompletesOneFrame : Prop :=
  ∀ (s : State) (b : BufName) (bytes : List Byte), s.idle b = true → bytes.length ≤ 126 →
    (∀ x ∈ bytes, isData x = true) →
    let frame := 0xF0 :: (bytes ++ [0xF7])
    let t := appendAll s b frame
    (t.completeLen b).toNat = frame.length ∧ t.fillPos b = 0 ∧
      ∀ j (h : j < frame.length), t.byteAt b j = frame[j]

/-- R93: from idle, a start marker and 127 bytes that are no marker overflow at the last of them; the
buffer is then idle, and more such bytes leave it so. -/
def Obligations.UnterminatedSequenceOverflows : Prop :=
  ∀ (s : State) (b : BufName) (first rest : List Byte) (x : Byte), s.idle b = true → first.length = 126 →
    (∀ y ∈ first, isData y = true) → isData x = true → (∀ y ∈ rest, isData y = true) →
    ((appendAll s b (0xF0 :: first)).faAppend b x).2 = .overflow ∧
      (appendAll s b (0xF0 :: (first ++ x :: rest))).idle b = true

/-! ## Queues -/

/-- R111: masking is reduction modulo the depth, for each of the three depths. -/
def Obligations.SlotMaskIsModulo : Prop :=
  ∀ i : Counter, (slotOf Config.nInt i).val = i.toNat % 2 ∧ (slotOf Config.nReq i).val = i.toNat % 1 ∧
    (slotOf Config.nRsp i).val = i.toNat % 4

/-- R115, R116, R121: a publish adds one to the count and a release takes one off, across a wrap of the
counters too; the other queues' counts stay. -/
def Obligations.CountSurvivesWraparound : Prop :=
  ∀ (s : State) (q q' : Queue),
    (s.qPublish q).count q' = (if q' = q then s.count q' + 1 else s.count q') ∧
    (s.qRelease q).count q' = (if q' = q then s.count q' - 1 else s.count q')

/-- R120 where a slot is free: the frame is copied into the write slot, which is published, and the
source and every other buffer stay. -/
def Obligations.RspPushCopiesTheFrame : Prop :=
  ∀ (s : State) (src : BufName), src ≠ s.rspTail → (s.completeLen src).toNat ≤ 128 → s.rspW - s.rspR ≠ 4 →
    ∃ t, s.rspPush src = .ok t ∧
      t = { s with mem := t.mem, cursors := t.cursors, rspW := s.rspW + 1 } ∧
      t.cursorsOf (.rsp (Fin.ofNat 4 s.rspW.toNat)) = { fillPos := 0, completeLen := s.completeLen src } ∧
      (∀ j, j < 128 → t.byteAt (.rsp (Fin.ofNat 4 s.rspW.toNat)) j =
        if j < (s.completeLen src).toNat then s.byteAt src j
        else s.byteAt (.rsp (Fin.ofNat 4 s.rspW.toNat)) j) ∧
      ∀ b, b ≠ .rsp (Fin.ofNat 4 s.rspW.toNat) → SameBuffer s t b

/-! ## Snooper -/

/-- R130, R135: S_SNOOP always ends in S_EVAL; it writes no register but ERR, the INT and RSP write indices
and FSM, no buffer but the working pair and the next two response slots, and of each working buffer no
byte but the first and the one at its fill position. -/
def Obligations.SnoopAlwaysReachesEval : Prop :=
  ∀ s : State, (s.completeLen (.int s.workingSlot .dn)).toNat ≤ 128 →
    ∃ t, exec .sSnoop s = .next t ∧ t.fsm = 0x1 ∧ t.errFresh = false ∧ SameBusAndHost s t ∧
      (∀ b, b ≠ .int s.workingSlot .up → b ≠ .int s.workingSlot .dn → b ≠ .rsp (slotOf 4 s.rspW) →
        b ≠ .rsp (slotOf 4 (s.rspW + 1)) → SameBuffer s t b) ∧
      ∀ c j, j < 128 → j ≠ 0 → j ≠ (s.fillPos (.int s.workingSlot c)).toNat →
        t.byteAt (.int s.workingSlot c) j = s.byteAt (.int s.workingSlot c) j

/-- R131, R132, R95: the byte UP offers is appended to the working pair's UP buffer, then the byte DN
offers to its DN buffer, and an Overflow of either raises OVERFLOW (bit 1). Where UP's byte completes no
frame nothing is published; where it completes one, no pair waits and ROUTE is 0, the pair is published as
it then stands. Where both channels overflow, the two raises of OVERFLOW have one draw of R62 between them:
the model's choice (log entry 9). -/
def Obligations.SnoopFeedsThenPublishes : Prop :=
  ∀ s : State,
    let w := s.workingSlot
    let upOutcome := offerOutcome s (.int w .up) s.move.up
    let fed := fedWith (fedWith s (.int w .up) s.move.up) (.int w .dn) s.move.dn
    ((∀ n, upOutcome ≠ some (.complete n)) → exec .sSnoop s = .next { fed with fsm := 0x1, errFresh := false }) ∧
    (∀ n, upOutcome = some (.complete n) → s.intW - s.intR = 0 → s.cfg.getLsbD 0 = false →
      exec .sSnoop s = .next { fed with intW := s.intW + 1, fsm := 0x1, errFresh := false })

/-- R134: where the UP channel completes a frame while a pair waits, BP_INT (bit 4) is raised and both
working buffers are idle; INT_W stays, and nothing is mirrored. -/
def Obligations.SnoopDropsThePairWhenFull : Prop :=
  ∀ s : State, ∀ n,
    let w := s.workingSlot
    let fed := fedWith (fedWith s (.int w .up) s.move.up) (.int w .dn) s.move.dn
    offerOutcome s (.int w .up) s.move.up = some (.complete n) → 1 ≤ (s.intW - s.intR).toNat →
    ∃ t, exec .sSnoop s = .next t ∧
      t = { fed with
            cursors := t.cursors
            err := errAfter fed 4
            fsm := 0x1
            errFresh := false
            out := { fed.out with raised := fed.out.raised ||| 0x10 } } ∧
      (∀ c, t.cursorsOf (.int w c) = Cursors.idle) ∧
      ∀ b, (∀ c, b ≠ .int w c) → t.cursorsOf b = s.cursorsOf b

/-- R133 where a response slot is free: with ROUTE 1, of the pair's frames that are complete and that
NOREQ does not suppress, in the order of MIRROR_ORDER, as many as slots are free enter the response queue;
one that finds the queue full is dropped with BP_RSP (bit 6). The pair is published. -/
def Obligations.SnoopMirrorsIntoFreeSlots : Prop :=
  ∀ s : State, ∀ n,
    let w := s.workingSlot
    let fed := fedWith (fedWith s (.int w .up) s.move.up) (.int w .dn) s.move.dn
    let mirrored := mirroredFrames fed w
    let kept := mirrored.take (4 - (s.rspW - s.rspR).toNat)
    let slot := fun k : Nat => BufName.rsp (slotOf 4 (s.rspW + BitVec.ofNat 32 k))
    offerOutcome s (.int w .up) s.move.up = some (.complete n) → s.intW - s.intR = 0 → s.cfg.getLsbD 0 = true →
    (fed.completeLen (.int w .dn)).toNat ≤ 128 → (s.rspW - s.rspR).toNat < 4 →
    ∃ t, exec .sSnoop s = .next t ∧
      t = { fed with
            mem := t.mem
            cursors := t.cursors
            intW := s.intW + 1
            rspW := s.rspW + BitVec.ofNat 32 kept.length
            err := if kept = mirrored then fed.err else errAfter fed 6
            fsm := 0x1
            errFresh := false
            out := { fed.out with raised := if kept = mirrored then fed.out.raised else fed.out.raised ||| 0x40 } } ∧
      (∀ k c, kept[k]? = some c →
        t.cursorsOf (slot k) = { fillPos := 0, completeLen := fed.completeLen (.int w c) } ∧
        ∀ j, j < 128 → t.byteAt (slot k) j =
          if j < (fed.completeLen (.int w c)).toNat then fed.byteAt (.int w c) j else fed.byteAt (slot k) j) ∧
      ∀ b, (∀ k, k < kept.length → b ≠ slot k) → SameBuffer fed t b

/-- R133 where the response queue is full, with ROUTE 1 and NOREQ 0 or 1: every copy is dropped with
BP_RSP (bit 6), no buffer changes, and the intercept publish still happens. Where both copies are dropped
the two raises of BP_RSP have one draw of R62 between them: the model's choice (log entry 9). -/
def Obligations.SnoopPublishesDespiteFullResponses : Prop :=
  ∀ s : State, ∀ n,
    let w := s.workingSlot
    let fed := fedWith (fedWith s (.int w .up) s.move.up) (.int w .dn) s.move.dn
    offerOutcome s (.int w .up) s.move.up = some (.complete n) → s.intW - s.intR = 0 → s.cfg.getLsbD 0 = true →
    s.rspW - s.rspR = 4 →
    exec .sSnoop s =
      if mirroredFrames fed w = [] then .next { fed with intW := s.intW + 1, fsm := 0x1, errFresh := false }
      else
        .next { fed with
                intW := s.intW + 1
                err := errAfter fed 6
                fsm := 0x1
                errFresh := false
                out := { fed.out with raised := fed.out.raised ||| 0x40 } }

/-! ## Injector -/

/-- R151. -/
def Obligations.EvalAssertsArbWhenReady : Prop :=
  ∀ s : State,
    let up := s.cursorsOf (.int (Fin.ofNat 2 s.intW.toNat) .up)
    let dn := s.cursorsOf (.int (Fin.ofNat 2 s.intW.toNat) .dn)
    exec .sEval s =
      if up = Cursors.idle ∧ dn = Cursors.idle ∧ s.reqW - s.reqR ≠ 0 ∧ s.move.ready = true then
        .next { s with arb := true, t0 := s.now, fsm := 0x2, errFresh := false }
      else .next { s with fsm := 0x0, errFresh := false }

/-- R152; while the guard time has not passed the step holds, and the state stays (log entry 6). -/
def Obligations.GuardRechecksReady : Prop :=
  ∀ s : State,
    exec .sGuard s =
      if (s.now - s.t0).toNat < Config.params.guardTicks then .next s
      else if s.move.ready = true then .next { s with fsm := 0x3, errFresh := false }
      else .next { s with arb := false, fsm := 0x0, errFresh := false }

/-- R153: a framed request flushes the channel and begins the transaction; a request without its markers
raises FRAMING (bit 0) and is discarded, ARB is released, and no byte is transmitted. -/
def Obligations.ValidateStartsOrDiscardsTheRequest : Prop :=
  ∀ s : State, (s.completeLen (.req 0)).toNat ≤ 128 →
    let n := (s.completeLen (.req 0)).toNat
    (n ≠ 0 ∧ s.byteAt (.req 0) 0 = 0xF0 ∧ s.byteAt (.req 0) (n - 1) = 0xF7 →
      exec .sValidate s =
        .next { s with
                attnN := false
                txi := 0
                fsm := 0x4
                errFresh := false
                xcvRx := []
                out := { s.out with xcv := some .flush } }) ∧
    (n = 0 ∨ s.byteAt (.req 0) 0 ≠ 0xF0 ∨ s.byteAt (.req 0) (n - 1) ≠ 0xF7 →
      ∃ t, exec .sValidate s = .next t ∧
        t = { s with
              cursors := t.cursors
              reqR := s.reqR + 1
              err := errAfter s 0
              arb := false
              fsm := 0x0
              errFresh := false
              out := { s.out with raised := s.out.raised ||| 0x01 } } ∧
        t.cursorsOf (.req 0) = Cursors.idle ∧ ∀ b, b ≠ .req 0 → t.cursorsOf b = s.cursorsOf b)

/-- R154, R164: without a bus clock the step holds and the state stays (log entry 6); with one it sends
`buf[TXI]`, and after the last byte capture begins with CAP idle and T0 = NOW. -/
def Obligations.TransmitSendsOneByteAClock : Prop :=
  ∀ s : State,
    let sent := { s with txi := s.txi + 1, errFresh := false,
                         out := { s.out with xcv := some (.exchange (s.byteAt (.req 0) s.txi.toNat)) } }
    (s.move.clock = none → exec .sTx s = .next s) ∧
    (∀ lb, s.move.clock = some lb → s.txi.toNat < 128 → s.txi + 1 ≠ s.completeLen (.req 0) →
      exec .sTx s = .next { sent with fsm := 0x4 }) ∧
    (∀ lb, s.move.clock = some lb → s.txi.toNat < 128 → s.txi + 1 = s.completeLen (.req 0) →
      ∃ t, exec .sTx s = .next t ∧ t = { sent with cursors := t.cursors, t0 := s.now, fsm := 0x5 } ∧
        t.cursorsOf .cap = Cursors.idle ∧ ∀ b, b ≠ .cap → t.cursorsOf b = s.cursorsOf b)

/-- R155, R162: a poll that finds no byte only tests the deadline; reached, it raises TIMEOUT (bit 2)
and goes to S_ABORT. -/
def Obligations.CapturePollTestsDeadline : Prop :=
  ∀ s : State, s.xcvRx = [] →
    exec .sCap s =
      if Config.params.tickHz ≤ (s.now - s.t0).toNat then
        .next { s with err := errAfter s 2, fsm := 0x7, errFresh := false,
                       out := { s.out with raised := s.out.raised ||| 0x04 } }
      else .next { s with fsm := 0x5, errFresh := false }

/-- R163: a null while CAP holds exactly the start marker raises GLITCH (bit 3), leaves CAP and every
other buffer unchanged, and capture goes on under the deadline (TIMEOUT, bit 2). -/
def Obligations.CaptureFiltersTheGlitch : Prop :=
  ∀ (s : State) (rest : List Byte), s.xcvRx = 0x00 :: rest → s.fillPos .cap = 1 →
    let filtered : State :=
      { s with xcvRx := rest, err := errAfter s 3, out := { s.out with raised := s.out.raised ||| 0x08 } }
    exec .sCap s =
      if Config.params.tickHz ≤ (s.now - s.t0).toNat then
        .next { filtered with
                err := errAfter filtered 2
                fsm := 0x7
                errFresh := false
                out := { filtered.out with raised := filtered.out.raised ||| 0x04 } }
      else .next { filtered with fsm := 0x5, errFresh := false }

/-- R155, R162: a byte that completes the frame wins over a deadline reached in the same poll. -/
def Obligations.CaptureCompletionBeatsDeadline : Prop :=
  ∀ (s : State) (rest : List Byte), s.xcvRx = 0xF7 :: rest → s.fillPos .cap ≠ 0 → s.completeLen .cap = 0 →
    ∃ t, exec .sCap s = .next t ∧
      t = { s with mem := t.mem, cursors := t.cursors, xcvRx := rest, fsm := 0x6, errFresh := false } ∧
      t.cursorsOf .cap = { fillPos := 0, completeLen := (s.fillPos .cap).setWidth 8 + 1 } ∧
      t.byteAt .cap (s.fillPos .cap).toNat = 0xF7 ∧
      (∀ j, j ≠ (s.fillPos .cap).toNat → j < 128 → t.byteAt .cap j = s.byteAt .cap j) ∧
      ∀ b, b ≠ .cap → SameBuffer s t b

/-- R155, R168: S_CAP never holds and never stops; it writes no buffer but CAP, of CAP no byte but the
first and the one at its fill position, and ends in S_CAP, S_COMMIT or S_ABORT. A byte that is neither
filtered (R163) nor completes a frame leaves in CAP what FA_APPEND leaves, raises OVERFLOW (bit 1) exactly
on the outcome Overflow (R95), and the deadline is then tested (TIMEOUT, bit 2). -/
def Obligations.CaptureAlwaysGoesOn : Prop :=
  ∀ s : State,
    (∃ t, exec .sCap s = .next t ∧ (t.fsm = 0x5 ∨ t.fsm = 0x6 ∨ t.fsm = 0x7) ∧
      (∀ b, b ≠ .cap → SameBuffer s t b) ∧
      (∀ j, j < 128 → j ≠ 0 → j ≠ (s.fillPos .cap).toNat → t.byteAt .cap j = s.byteAt .cap j) ∧
      SameBusAndHost { s with xcvRx := s.xcvRx.tail } t ∧
      t.intW = s.intW ∧ t.rspW = s.rspW ∧ s.err &&& t.err = s.err) ∧
    ∀ (x : Byte) (rest : List Byte), s.xcvRx = x :: rest → ¬(x = 0x00 ∧ s.fillPos .cap = 1) →
      (∀ n, (s.faAppend .cap x).2 ≠ .complete n) →
      let fed := fedWith { s with xcvRx := rest } .cap (some x)
      exec .sCap s =
        if Config.params.tickHz ≤ (s.now - s.t0).toNat then
          .next { fed with
                  err := errAfter fed 2
                  fsm := 0x7
                  errFresh := false
                  out := { fed.out with raised := fed.out.raised ||| 0x04 } }
        else .next { fed with fsm := 0x5, errFresh := false }

/-- R156: the bus is released and the request consumed. With a free response slot the response is
published; with a full queue BP_RSP (bit 6) is raised and the response dropped. -/
def Obligations.CommitConsumesTheRequest : Prop :=
  ∀ s : State,
    (s.rspW - s.rspR ≠ 4 → (s.completeLen .cap).toNat ≤ 128 →
      ∃ t, exec .sCommit s = .next t ∧
        t = { s with
              mem := t.mem
              cursors := t.cursors
              arb := false
              attnN := true
              rspW := s.rspW + 1
              reqR := s.reqR + 1
              fsm := 0x0
              errFresh := false } ∧
        t.cursorsOf (.rsp (slotOf 4 s.rspW)) = { fillPos := 0, completeLen := s.completeLen .cap } ∧
        (∀ j, j < (s.completeLen .cap).toNat → t.byteAt (.rsp (slotOf 4 s.rspW)) j = s.byteAt .cap j) ∧
        (∀ j, (s.completeLen .cap).toNat ≤ j → j < 128 →
          t.byteAt (.rsp (slotOf 4 s.rspW)) j = s.byteAt (.rsp (slotOf 4 s.rspW)) j) ∧
        (∀ b j, b ≠ .rsp (slotOf 4 s.rspW) → j < 128 → t.byteAt b j = s.byteAt b j) ∧
        t.cursorsOf .cap = Cursors.idle ∧ t.cursorsOf (.req 0) = Cursors.idle ∧
        ∀ b, b ≠ .rsp (slotOf 4 s.rspW) → b ≠ .cap → b ≠ .req 0 → t.cursorsOf b = s.cursorsOf b) ∧
    (s.rspW - s.rspR = 4 →
      ∃ t, exec .sCommit s = .next t ∧
        t = { s with
              cursors := t.cursors
              arb := false
              attnN := true
              reqR := s.reqR + 1
              err := errAfter s 6
              fsm := 0x0
              errFresh := false
              out := { s.out with raised := s.out.raised ||| 0x40 } } ∧
        t.cursorsOf .cap = Cursors.idle ∧ t.cursorsOf (.req 0) = Cursors.idle ∧
        ∀ b, b ≠ .cap → b ≠ .req 0 → t.cursorsOf b = s.cursorsOf b)

/-- R157. -/
def Obligations.AbortReleasesTheBus : Prop :=
  ∀ s : State, ∃ t, exec .sAbort s = .next t ∧
    t = { s with cursors := t.cursors, arb := false, attnN := true, fsm := 0x0, errFresh := false } ∧
    t.cursorsOf .cap = Cursors.idle ∧ ∀ b, b ≠ .cap → t.cursorsOf b = s.cursorsOf b

/-- The model's choice (log entry 11), on R52: where a cursor beyond the capacity names a byte that does
not exist, the three steps that would reach it stop with noSuchByte. -/
def Obligations.CursorBeyondCapacityStops : Prop :=
  ∀ s : State,
    (128 < (s.completeLen (.req 0)).toNat → exec .sValidate s = .fault .noSuchByte) ∧
    (∀ lb, s.move.clock = some lb → 128 ≤ s.txi.toNat → exec .sTx s = .fault .noSuchByte) ∧
    (128 < (s.completeLen .cap).toNat → s.rspW - s.rspR ≠ 4 → exec .sCommit s = .fault .noSuchByte)

/-- R157, R162, R274: in S_CAP with no byte received: with the deadline reached the next two ENGINE
steps raise TIMEOUT once and release the bus, no response is recorded and the request is kept; before the
deadline the step stays in S_CAP, raises nothing, and keeps the bus. -/
def Obligations.TimeoutReleasesTheBusInTwoSteps : Prop :=
  ∀ (s : State) (m₁ m₂ : Move) (rest : List Move), s.faWord = none →
    s.fsm = 0x5 → s.tape = m₁ :: m₂ :: rest → m₁.turn = .engine → m₂.turn = .engine →
    s.xcvRx = [] → m₁.xcvIn = [] →
    if Config.params.tickHz ≤ (s.now - s.t0).toNat then
      ∃ t u, step s = .next t ∧ t.out.raised = 0x04 ∧ step t = .next u ∧ u.out.raised = 0 ∧
        u.fsm = 0x0 ∧ u.arb = false ∧ u.attnN = true ∧ u.idle .cap = true ∧
        u.rspW = s.rspW ∧ u.rspR = s.rspR ∧ u.reqR = s.reqR ∧ u.reqW = s.reqW ∧
        ∀ b, b ≠ .cap → SameBuffer s u b
    else
      ∃ t, step s = .next t ∧ t.out.raised = 0 ∧ t.err = s.err ∧ t.fsm = 0x5 ∧ t.arb = s.arb ∧ t.attnN = s.attnN ∧
        ∀ b, SameBuffer s t b

/-! ## Faults, registers and who writes what -/

/-- R231, R62: raising a fault ORs its bit into ERR, unless the update may be and is lost; control does
not transfer and nothing else of the block changes. -/
def Obligations.RaiseSetsOneStickyBit : Prop :=
  ∀ (s : State) (k : FaultKind),
    s.raise k = { s with err := errAfter s k.code, out := { s.out with raised := s.out.raised ||| (1#8 <<< k.code) } }

/-- R23, R231: no operation but ERR_CLEAR clears a bit of ERR, and none sets bit 7. -/
def Obligations.ErrBitsAreSticky : Prop :=
  ∀ (i : Instr) (s t : State), i ≠ .errClear → exec i s = .next t →
    s.err &&& t.err = s.err ∧ t.err.getLsbD 7 = s.err.getLsbD 7

/-- R232: the fault kinds each step can raise; every other operation raises none. -/
def Obligations.FaultsComeFromTheirSteps : Prop :=
  ∀ (i : Instr) (s t : State), exec i s = .next t →
    ∃ m, t.out.raised = s.out.raised ||| m ∧
      m &&& (match i with
        | .sSnoop => 0x52
        | .sCap => 0x0E
        | .sValidate => 0x01
        | .sCommit => 0x40
        | .reqPublish => 0x20
        | _ => 0x00) = m

/-- R244, R62: with ERR_LOST_UPDATES false, or where no ERR_CLEAR came just before (the model's errFresh,
log entry 9), a fault a step raises has its bit set after it. -/
def Obligations.RaisedFaultsAreRecorded : Prop :=
  ∀ (i : Instr) (s t : State), (Config.params.errLostUpdates = false ∨ s.errFresh = false) → i ≠ .errClear →
    s.out.raised = 0 → exec i s = .next t → t.err = s.err ||| t.out.raised

/-- R32, R114: each index counter is written by its one writer, and only by adding 1. -/
def Obligations.IndexCountersHaveOneWriter : Prop :=
  ∀ (i : Instr) (s t : State), exec i s = .next t →
    (t.intW = s.intW ∨ i = .sSnoop ∧ t.intW = s.intW + 1) ∧
    (t.intR = s.intR ∨ i = .intRelease ∧ t.intR = s.intR + 1) ∧
    (t.reqW = s.reqW ∨ i = .reqPublish ∧ t.reqW = s.reqW + 1) ∧
    (t.reqR = s.reqR ∨ (i = .sValidate ∨ i = .sCommit) ∧ t.reqR = s.reqR + 1) ∧
    (t.rspW = s.rspW ∨ i = .sCommit ∧ t.rspW = s.rspW + 1 ∨
      i = .sSnoop ∧ (t.rspW = s.rspW + 1 ∨ t.rspW = s.rspW + 2)) ∧
    (t.rspR = s.rspR ∨ i = .rspRelease ∧ t.rspR = s.rspR + 1)

/-- R31, R63, R27, R28, R33: who writes CFG, ARB, ATTN_N, TXI, T0, NOW and FSM. -/
def Obligations.RegistersHaveTheirWriters : Prop :=
  ∀ (i : Instr) (s t : State), exec i s = .next t →
    (t.cfg = s.cfg ∨ ∃ sel data, i = .wrreg sel data) ∧
    (t.arb = s.arb ∨ i = .sEval ∧ t.arb = true ∨
      (i = .sGuard ∨ i = .sValidate ∨ i = .sCommit ∨ i = .sAbort) ∧ t.arb = false) ∧
    (t.attnN = s.attnN ∨ i = .sValidate ∧ t.attnN = false ∨ (i = .sCommit ∨ i = .sAbort) ∧ t.attnN = true) ∧
    (t.txi = s.txi ∨ i = .sValidate ∧ t.txi = 0 ∨ i = .sTx ∧ t.txi = s.txi + 1) ∧
    (t.t0 = s.t0 ∨ (i = .sEval ∨ i = .sTx) ∧ t.t0 = s.now) ∧
    (t.fsm = s.fsm ∨ i.format = .fsm4) ∧ t.now = s.now

/-- R150: the successors of each ENGINE state. A step that holds stays in its state. -/
def Obligations.EngineFollowsTheStateGraph : Prop :=
  ∀ (i : Instr) (s t : State), decodeFsm4 s.fsm = .ok i → exec i s = .next t →
    match i with
    | .sSnoop => t.fsm = 0x1
    | .sEval => t.fsm = 0x2 ∨ t.fsm = 0x0
    | .sGuard => t = s ∨ t.fsm = 0x3 ∨ t.fsm = 0x0
    | .sValidate => t.fsm = 0x4 ∨ t.fsm = 0x0
    | .sTx => t = s ∨ t.fsm = 0x4 ∨ t.fsm = 0x5
    | .sCap => t.fsm = 0x5 ∨ t.fsm = 0x6 ∨ t.fsm = 0x7
    | .sCommit => t.fsm = 0x0
    | .sAbort => t.fsm = 0x0
    | _ => False

/-! ## The step, the agents and reset -/

/-- A step runs the decoded operation: the one FSM names on ENGINE's turn, the one the word encodes on
HOST's, whose step is enabled in every state under DUAL and in S_SNOOP under SINGLE (R190, R238); it stands
between the start of the step (the bytes received on XCV arrive) and its end (the next move). -/
def Obligations.StepRunsTheDecodedOperation : Prop :=
  ∀ (s : State) (i : Instr), s.faWord = none →
    (s.move.turn = .engine ∧ decode (.fsm4 s.fsm) = .ok i ∨
      ∃ w, s.move.turn = .host w ∧ (Config.params.sched = .dual ∨ s.fsm = 0x0) ∧ decode (.cmd32 w) = .ok i) →
    step s = endOutcome State.endStep (exec i s.beginStep)

/-- R78: decoding as R71, R73, R78 and R80 write the words, on one word of each family. -/
def Obligations.WordsDecodeAsTheSpecWritesThem : Prop :=
  decode (.cmd32 0x01070100) = .ok (.rdreg 0x07 0x01) ∧ decode (.cmd32 0x020100FF) = .ok (.wrreg 0x01 0xFF) ∧
    decode (.cmd32 0x10000142) = .ok (.reqWrite 0x01 0x42) ∧ decode (.cmd32 0x20010300) = .ok (.intRead 0x01 0x03) ∧
    decode (.cmd32 0x31000000) = .ok .rspLen ∧ decode (.fsm4 0x5) = .ok .sCap ∧
    decode (.fa9 0x0F0) = .ok (.faAppend 0xF0) ∧ decode (.fa9 0x1F0) = .ok .faClear

/-- R205, R74: a word whose `op` is reserved decodes to nothing, and HOST's step with it, where SCHED
enables one (R190, R238), returns ILLEGAL and changes no state. -/
def Obligations.ReservedOpcodesReturnIllegal : Prop :=
  ∀ (s : State) (w : Word),
    (0x05 ≤ (opOf w).toNat ∧ (opOf w).toNat ≤ 0x0F ∨ 0x13 ≤ (opOf w).toNat ∧ (opOf w).toNat ≤ 0x1F ∨
      0x23 ≤ (opOf w).toNat ∧ (opOf w).toNat ≤ 0x2F ∨ 0x33 ≤ (opOf w).toNat) →
    decode (.cmd32 w) = .error .reservedOpcode ∧
    (s.faWord = none → s.move.turn = .host w → (Config.params.sched = .dual ∨ s.fsm = 0x0) →
      step s = .next (answer s.beginStep .illegal 0x00).endStep)

/-- R7, R79, R190, R238, R31: arguments outside R7 are refused, and no others for that reason; in a
reserved FSM code ENGINE has no step, and the model records BadState; outside S_SNOOP HOST's turn under
SINGLE changes nothing of the block (log entry 6) and under DUAL runs its word; a TIMER step advances NOW
alone. -/
def Obligations.AgentsStepWhenEnabled : Prop :=
  (∀ a : Arguments, a.accept = .error .outsideConstraints ↔
    ¬((∀ n ∈ [a.nInt, a.nReq, a.nRsp], (∃ k, n = 2 ^ k) ∧ n ≤ 128) ∧ 2 ≤ a.nInt ∧
      2 * max a.nInt (max a.nReq a.nRsp) < 2 ^ a.ctrW ∧ 1 ≤ a.tickHz)) ∧
  ∀ s : State, s.faWord = none →
    (s.move.turn = .engine → 8 ≤ s.fsm.toNat → step s = .fault .badState) ∧
    (∀ w, s.move.turn = .host w → s.fsm ≠ 0x0 →
      step s =
        if Config.params.sched = .single then .next s.beginStep.endStep
        else
          match decode (.cmd32 w) with
          | .ok i => endOutcome State.endStep (exec i s.beginStep)
          | .error _ => .next (answer s.beginStep .illegal 0x00).endStep) ∧
    (∀ e, s.move.turn = .timer e →
      step s = .next { s.beginStep.endStep with now := s.now + BitVec.ofNat 64 (e + 1) })

/-- R39, R261: the reset values; the bytes are any value (the free value of log entry 3). -/
def Obligations.ResetLeavesTheStatedValues : Prop :=
  let r := State.reset
  (∀ b, r.fillPos b = 0 ∧ r.completeLen b = 0 ∧ ∀ j, r.byteAt b j = Config.powerOnByte (byteAddr b j)) ∧
    r.err = 0x00 ∧ r.cfg = 0x00 ∧ r.fsm = 0x0 ∧ r.arb = false ∧ r.attnN = true ∧ r.intW = 0 ∧ r.intR = 0 ∧
    r.reqW = 0 ∧ r.reqR = 0 ∧ r.rspW = 0 ∧ r.rspR = 0 ∧ r.txi = 0 ∧ r.t0 = 0 ∧ r.now = 0

/-! ## Headline statements -/

/-- Decode and encode agree: every operation, with every operand at every value, decodes from its own
word (R71, R73, R78, R80, R83). -/
def Obligations.DecodeOfEncodeIsIdentity : Prop :=
  ∀ i : Instr, decode (encode i) = .ok i

/-- R75: two CMD32 words that differ only in fields the command does not use are the same command: a
word that decodes to `i` agrees with `i`'s encoding in its opcode and in every field `i` uses, and the
decoding depends on those alone. -/
def Obligations.UnusedFieldsAreIgnored : Prop :=
  ∀ (op sel idx data sel' idx' data' : Byte),
    ((op = 0x01 ∨ op = 0x02 ∨ op = 0x04 ∨ op = 0x20 ∨ op = 0x21) → sel' = sel) →
    ((op = 0x01 ∨ op = 0x10 ∨ op = 0x20 ∨ op = 0x30) → idx' = idx) →
    ((op = 0x02 ∨ op = 0x10 ∨ op = 0x11) → data' = data) →
    decodeCmd32 (enc op sel' idx' data') = decodeCmd32 (enc op sel idx data)

/-- Storage keeps its canonical form in every step from every state that has it. -/
def Obligations.StepKeepsStorageCanonical : Prop :=
  ∀ s t : State, s.mem.wf = true → step s = .next t → t.mem.wf = true

/-- R159, R160: ARB is asserted exactly in S_GUARD to S_ABORT, ATTN_N exactly in S_TX to S_ABORT, and
FSM holds a legal code, in every step from every state where that is so. -/
def Obligations.StepKeepsTheBusWindows : Prop :=
  ∀ s t : State, s.fsmLegal = true → s.busWindows = true → step s = .next t →
    t.fsmLegal = true ∧ t.busWindows = true

/-- The invariant of the block's runs (R22, R61, R94, R113, R118, R159, R160, R165; Sys2Proof/Safety.lean)
is kept by every step from every state that has it. -/
def Obligations.StepKeepsTheInvariant : Prop :=
  ∀ s t : State, Inv s → step s = .next t → Inv t

/-- The invariant holds right after reset. Its clause that no FA9 word is placed rests on faWord's value in
State.reset, which is the model's choice (log entry 12). -/
def Obligations.ResetHasTheInvariant : Prop := Inv State.reset

/-- R230, R231, R168: under the invariant no step stops: no agent's move ends in a fault or a refusal. That
a turn of S_GUARD, S_TX or HOST that is held answers a next state too is the model's choice (log entry 6):
the spec has such a step not enabled, or stuck. -/
def Obligations.InvariantStatesNeverStop : Prop :=
  ∀ s : State, Inv s → CanStep s

/-- R165: every published response a host can read is a frame: it begins with 0xF0, ends with 0xF7, and
is 2 to 128 bytes long, in every state with the invariant. -/
def Obligations.ReadableResponsesAreFrames : Prop :=
  ∀ (s : State), Inv s → s.rspW - s.rspR ≠ 0 →
    ∃ n : Byte, exec .rspLen s = .next (answer s .ok n) ∧ 2 ≤ n.toNat ∧ n.toNat ≤ 128 ∧
      exec (.rspRead 0) s = .next (answer s .ok 0xF0) ∧ exec (.rspRead (n - 1)) s = .next (answer s .ok 0xF7)
end

