-- ==== Sys2Proof/Laws/Decode.lean ====
section
/-! SUPPORT. The fields of an encoded CMD32 word are the ones it was made of (30_encoding.md R71, R83). -/

namespace Sys2Proof

@[simp] theorem opOf_enc (op sel idx data : Byte) : opOf (enc op sel idx data) = op := by
  simp only [opOf, enc]; ext i hi
  have h1 : ¬ (24 + i < 8) := by omega
  have h2 : ¬ (24 + i - 8 < 8) := by omega
  have h3 : ¬ (24 + i - 8 - 8 < 8) := by omega
  have h4 : 24 + i - 8 - 8 - 8 = i := by omega
  simp only [BitVec.getElem_extractLsb', BitVec.getLsbD_append]
  simp [h1, h2, h3, h4, hi]

@[simp] theorem selOf_enc (op sel idx data : Byte) : selOf (enc op sel idx data) = sel := by
  simp only [selOf, enc]; ext i hi
  have h1 : ¬ (16 + i < 8) := by omega
  have h2 : ¬ (16 + i - 8 < 8) := by omega
  have h3 : 16 + i - 8 - 8 = i := by omega
  simp only [BitVec.getElem_extractLsb', BitVec.getLsbD_append]
  simp [h1, h2, h3, hi]

@[simp] theorem idxOf_enc (op sel idx data : Byte) : idxOf (enc op sel idx data) = idx := by
  simp only [idxOf, enc]; ext i hi
  have h1 : ¬ (8 + i < 8) := by omega
  have h2 : 8 + i - 8 = i := by omega
  simp only [BitVec.getElem_extractLsb', BitVec.getLsbD_append]
  simp [h1, h2, hi]

@[simp] theorem dataOf_enc (op sel idx data : Byte) : dataOf (enc op sel idx data) = data := by
  simp only [dataOf, enc]; ext i hi
  simp only [BitVec.getElem_extractLsb', BitVec.getLsbD_append]
  simp [hi]

end Sys2Proof
end

