-- ==== Sys2Proof/Laws/State.lean ====
section
/-! SUPPORT. What each update of the state leaves in each field, and what the accessors read after it. -/

namespace Sys2Proof.Machine

/-! ## putByte -/

@[simp] theorem putByte_mem (s : State) (b : BufName) (i : Nat) (v : Byte) : (s.putByte b i v).mem = Memory.write s.mem (byteAddr b i) v := rfl
@[simp] theorem putByte_cursors (s : State) (b : BufName) (i : Nat) (v : Byte) : (s.putByte b i v).cursors = s.cursors := rfl
@[simp] theorem putByte_err (s : State) (b : BufName) (i : Nat) (v : Byte) : (s.putByte b i v).err = s.err := rfl
@[simp] theorem putByte_cfg (s : State) (b : BufName) (i : Nat) (v : Byte) : (s.putByte b i v).cfg = s.cfg := rfl
@[simp] theorem putByte_fsm (s : State) (b : BufName) (i : Nat) (v : Byte) : (s.putByte b i v).fsm = s.fsm := rfl
@[simp] theorem putByte_arb (s : State) (b : BufName) (i : Nat) (v : Byte) : (s.putByte b i v).arb = s.arb := rfl
@[simp] theorem putByte_attnN (s : State) (b : BufName) (i : Nat) (v : Byte) : (s.putByte b i v).attnN = s.attnN := rfl
@[simp] theorem putByte_intW (s : State) (b : BufName) (i : Nat) (v : Byte) : (s.putByte b i v).intW = s.intW := rfl
@[simp] theorem putByte_intR (s : State) (b : BufName) (i : Nat) (v : Byte) : (s.putByte b i v).intR = s.intR := rfl
@[simp] theorem putByte_reqW (s : State) (b : BufName) (i : Nat) (v : Byte) : (s.putByte b i v).reqW = s.reqW := rfl
@[simp] theorem putByte_reqR (s : State) (b : BufName) (i : Nat) (v : Byte) : (s.putByte b i v).reqR = s.reqR := rfl
@[simp] theorem putByte_rspW (s : State) (b : BufName) (i : Nat) (v : Byte) : (s.putByte b i v).rspW = s.rspW := rfl
@[simp] theorem putByte_rspR (s : State) (b : BufName) (i : Nat) (v : Byte) : (s.putByte b i v).rspR = s.rspR := rfl
@[simp] theorem putByte_txi (s : State) (b : BufName) (i : Nat) (v : Byte) : (s.putByte b i v).txi = s.txi := rfl
@[simp] theorem putByte_t0 (s : State) (b : BufName) (i : Nat) (v : Byte) : (s.putByte b i v).t0 = s.t0 := rfl
@[simp] theorem putByte_now (s : State) (b : BufName) (i : Nat) (v : Byte) : (s.putByte b i v).now = s.now := rfl
@[simp] theorem putByte_errFresh (s : State) (b : BufName) (i : Nat) (v : Byte) : (s.putByte b i v).errFresh = s.errFresh := rfl
@[simp] theorem putByte_xcvRx (s : State) (b : BufName) (i : Nat) (v : Byte) : (s.putByte b i v).xcvRx = s.xcvRx := rfl
@[simp] theorem putByte_tape (s : State) (b : BufName) (i : Nat) (v : Byte) : (s.putByte b i v).tape = s.tape := rfl
@[simp] theorem putByte_moves (s : State) (b : BufName) (i : Nat) (v : Byte) : (s.putByte b i v).moves = s.moves := rfl
@[simp] theorem putByte_faWord (s : State) (b : BufName) (i : Nat) (v : Byte) : (s.putByte b i v).faWord = s.faWord := rfl
@[simp] theorem putByte_faBuf (s : State) (b : BufName) (i : Nat) (v : Byte) : (s.putByte b i v).faBuf = s.faBuf := rfl
@[simp] theorem putByte_out (s : State) (b : BufName) (i : Nat) (v : Byte) : (s.putByte b i v).out = s.out := rfl
@[simp] theorem putByte_cursorsOf (s : State) (b : BufName) (i : Nat) (v : Byte) (x : BufName) : (s.putByte b i v).cursorsOf x = s.cursorsOf x := rfl
@[simp] theorem putByte_fillPos (s : State) (b : BufName) (i : Nat) (v : Byte) (x : BufName) : (s.putByte b i v).fillPos x = s.fillPos x := rfl
@[simp] theorem putByte_completeLen (s : State) (b : BufName) (i : Nat) (v : Byte) (x : BufName) : (s.putByte b i v).completeLen x = s.completeLen x := rfl
@[simp] theorem putByte_idle (s : State) (b : BufName) (i : Nat) (v : Byte) (x : BufName) : (s.putByte b i v).idle x = s.idle x := rfl
@[simp] theorem putByte_writeIdx (s : State) (b : BufName) (i : Nat) (v : Byte) (x : Queue) : (s.putByte b i v).writeIdx x = s.writeIdx x := by cases x <;> rfl
@[simp] theorem putByte_readIdx (s : State) (b : BufName) (i : Nat) (v : Byte) (x : Queue) : (s.putByte b i v).readIdx x = s.readIdx x := by cases x <;> rfl
@[simp] theorem putByte_count (s : State) (b : BufName) (i : Nat) (v : Byte) (x : Queue) : (s.putByte b i v).count x = s.count x := by cases x <;> rfl
@[simp] theorem putByte_move (s : State) (b : BufName) (i : Nat) (v : Byte) : (s.putByte b i v).move = s.move := rfl

/-! ## setCursors -/

@[simp] theorem setCursors_mem (s : State) (b : BufName) (c : Cursors) : (s.setCursors b c).mem = s.mem := rfl
@[simp] theorem setCursors_cursors (s : State) (b : BufName) (c : Cursors) : (s.setCursors b c).cursors = s.cursors.set b.index.val c b.index.isLt := rfl
@[simp] theorem setCursors_err (s : State) (b : BufName) (c : Cursors) : (s.setCursors b c).err = s.err := rfl
@[simp] theorem setCursors_cfg (s : State) (b : BufName) (c : Cursors) : (s.setCursors b c).cfg = s.cfg := rfl
@[simp] theorem setCursors_fsm (s : State) (b : BufName) (c : Cursors) : (s.setCursors b c).fsm = s.fsm := rfl
@[simp] theorem setCursors_arb (s : State) (b : BufName) (c : Cursors) : (s.setCursors b c).arb = s.arb := rfl
@[simp] theorem setCursors_attnN (s : State) (b : BufName) (c : Cursors) : (s.setCursors b c).attnN = s.attnN := rfl
@[simp] theorem setCursors_intW (s : State) (b : BufName) (c : Cursors) : (s.setCursors b c).intW = s.intW := rfl
@[simp] theorem setCursors_intR (s : State) (b : BufName) (c : Cursors) : (s.setCursors b c).intR = s.intR := rfl
@[simp] theorem setCursors_reqW (s : State) (b : BufName) (c : Cursors) : (s.setCursors b c).reqW = s.reqW := rfl
@[simp] theorem setCursors_reqR (s : State) (b : BufName) (c : Cursors) : (s.setCursors b c).reqR = s.reqR := rfl
@[simp] theorem setCursors_rspW (s : State) (b : BufName) (c : Cursors) : (s.setCursors b c).rspW = s.rspW := rfl
@[simp] theorem setCursors_rspR (s : State) (b : BufName) (c : Cursors) : (s.setCursors b c).rspR = s.rspR := rfl
@[simp] theorem setCursors_txi (s : State) (b : BufName) (c : Cursors) : (s.setCursors b c).txi = s.txi := rfl
@[simp] theorem setCursors_t0 (s : State) (b : BufName) (c : Cursors) : (s.setCursors b c).t0 = s.t0 := rfl
@[simp] theorem setCursors_now (s : State) (b : BufName) (c : Cursors) : (s.setCursors b c).now = s.now := rfl
@[simp] theorem setCursors_errFresh (s : State) (b : BufName) (c : Cursors) : (s.setCursors b c).errFresh = s.errFresh := rfl
@[simp] theorem setCursors_xcvRx (s : State) (b : BufName) (c : Cursors) : (s.setCursors b c).xcvRx = s.xcvRx := rfl
@[simp] theorem setCursors_tape (s : State) (b : BufName) (c : Cursors) : (s.setCursors b c).tape = s.tape := rfl
@[simp] theorem setCursors_moves (s : State) (b : BufName) (c : Cursors) : (s.setCursors b c).moves = s.moves := rfl
@[simp] theorem setCursors_faWord (s : State) (b : BufName) (c : Cursors) : (s.setCursors b c).faWord = s.faWord := rfl
@[simp] theorem setCursors_faBuf (s : State) (b : BufName) (c : Cursors) : (s.setCursors b c).faBuf = s.faBuf := rfl
@[simp] theorem setCursors_out (s : State) (b : BufName) (c : Cursors) : (s.setCursors b c).out = s.out := rfl
@[simp] theorem setCursors_byteAt (s : State) (b : BufName) (c : Cursors) (x : BufName) (j : Nat) : (s.setCursors b c).byteAt x j = s.byteAt x j := rfl
@[simp] theorem setCursors_writeIdx (s : State) (b : BufName) (c : Cursors) (x : Queue) : (s.setCursors b c).writeIdx x = s.writeIdx x := by cases x <;> rfl
@[simp] theorem setCursors_readIdx (s : State) (b : BufName) (c : Cursors) (x : Queue) : (s.setCursors b c).readIdx x = s.readIdx x := by cases x <;> rfl
@[simp] theorem setCursors_count (s : State) (b : BufName) (c : Cursors) (x : Queue) : (s.setCursors b c).count x = s.count x := by cases x <;> rfl
@[simp] theorem setCursors_move (s : State) (b : BufName) (c : Cursors) : (s.setCursors b c).move = s.move := rfl

/-! ## bumpWrite -/

@[simp] theorem bumpWrite_mem (s : State) (q : Queue) : (s.bumpWrite q).mem = s.mem := by cases q <;> rfl
@[simp] theorem bumpWrite_cursors (s : State) (q : Queue) : (s.bumpWrite q).cursors = s.cursors := by cases q <;> rfl
@[simp] theorem bumpWrite_err (s : State) (q : Queue) : (s.bumpWrite q).err = s.err := by cases q <;> rfl
@[simp] theorem bumpWrite_cfg (s : State) (q : Queue) : (s.bumpWrite q).cfg = s.cfg := by cases q <;> rfl
@[simp] theorem bumpWrite_fsm (s : State) (q : Queue) : (s.bumpWrite q).fsm = s.fsm := by cases q <;> rfl
@[simp] theorem bumpWrite_arb (s : State) (q : Queue) : (s.bumpWrite q).arb = s.arb := by cases q <;> rfl
@[simp] theorem bumpWrite_attnN (s : State) (q : Queue) : (s.bumpWrite q).attnN = s.attnN := by cases q <;> rfl
@[simp] theorem bumpWrite_txi (s : State) (q : Queue) : (s.bumpWrite q).txi = s.txi := by cases q <;> rfl
@[simp] theorem bumpWrite_t0 (s : State) (q : Queue) : (s.bumpWrite q).t0 = s.t0 := by cases q <;> rfl
@[simp] theorem bumpWrite_now (s : State) (q : Queue) : (s.bumpWrite q).now = s.now := by cases q <;> rfl
@[simp] theorem bumpWrite_errFresh (s : State) (q : Queue) : (s.bumpWrite q).errFresh = s.errFresh := by cases q <;> rfl
@[simp] theorem bumpWrite_xcvRx (s : State) (q : Queue) : (s.bumpWrite q).xcvRx = s.xcvRx := by cases q <;> rfl
@[simp] theorem bumpWrite_tape (s : State) (q : Queue) : (s.bumpWrite q).tape = s.tape := by cases q <;> rfl
@[simp] theorem bumpWrite_moves (s : State) (q : Queue) : (s.bumpWrite q).moves = s.moves := by cases q <;> rfl
@[simp] theorem bumpWrite_faWord (s : State) (q : Queue) : (s.bumpWrite q).faWord = s.faWord := by cases q <;> rfl
@[simp] theorem bumpWrite_faBuf (s : State) (q : Queue) : (s.bumpWrite q).faBuf = s.faBuf := by cases q <;> rfl
@[simp] theorem bumpWrite_out (s : State) (q : Queue) : (s.bumpWrite q).out = s.out := by cases q <;> rfl
@[simp] theorem bumpWrite_cursorsOf (s : State) (q : Queue) (x : BufName) : (s.bumpWrite q).cursorsOf x = s.cursorsOf x := by cases q <;> rfl
@[simp] theorem bumpWrite_fillPos (s : State) (q : Queue) (x : BufName) : (s.bumpWrite q).fillPos x = s.fillPos x := by cases q <;> rfl
@[simp] theorem bumpWrite_completeLen (s : State) (q : Queue) (x : BufName) : (s.bumpWrite q).completeLen x = s.completeLen x := by cases q <;> rfl
@[simp] theorem bumpWrite_idle (s : State) (q : Queue) (x : BufName) : (s.bumpWrite q).idle x = s.idle x := by cases q <;> rfl
@[simp] theorem bumpWrite_byteAt (s : State) (q : Queue) (x : BufName) (j : Nat) : (s.bumpWrite q).byteAt x j = s.byteAt x j := by cases q <;> rfl
@[simp] theorem bumpWrite_move (s : State) (q : Queue) : (s.bumpWrite q).move = s.move := by cases q <;> rfl

/-! ## bumpRead -/

@[simp] theorem bumpRead_mem (s : State) (q : Queue) : (s.bumpRead q).mem = s.mem := by cases q <;> rfl
@[simp] theorem bumpRead_cursors (s : State) (q : Queue) : (s.bumpRead q).cursors = s.cursors := by cases q <;> rfl
@[simp] theorem bumpRead_err (s : State) (q : Queue) : (s.bumpRead q).err = s.err := by cases q <;> rfl
@[simp] theorem bumpRead_cfg (s : State) (q : Queue) : (s.bumpRead q).cfg = s.cfg := by cases q <;> rfl
@[simp] theorem bumpRead_fsm (s : State) (q : Queue) : (s.bumpRead q).fsm = s.fsm := by cases q <;> rfl
@[simp] theorem bumpRead_arb (s : State) (q : Queue) : (s.bumpRead q).arb = s.arb := by cases q <;> rfl
@[simp] theorem bumpRead_attnN (s : State) (q : Queue) : (s.bumpRead q).attnN = s.attnN := by cases q <;> rfl
@[simp] theorem bumpRead_txi (s : State) (q : Queue) : (s.bumpRead q).txi = s.txi := by cases q <;> rfl
@[simp] theorem bumpRead_t0 (s : State) (q : Queue) : (s.bumpRead q).t0 = s.t0 := by cases q <;> rfl
@[simp] theorem bumpRead_now (s : State) (q : Queue) : (s.bumpRead q).now = s.now := by cases q <;> rfl
@[simp] theorem bumpRead_errFresh (s : State) (q : Queue) : (s.bumpRead q).errFresh = s.errFresh := by cases q <;> rfl
@[simp] theorem bumpRead_xcvRx (s : State) (q : Queue) : (s.bumpRead q).xcvRx = s.xcvRx := by cases q <;> rfl
@[simp] theorem bumpRead_tape (s : State) (q : Queue) : (s.bumpRead q).tape = s.tape := by cases q <;> rfl
@[simp] theorem bumpRead_moves (s : State) (q : Queue) : (s.bumpRead q).moves = s.moves := by cases q <;> rfl
@[simp] theorem bumpRead_faWord (s : State) (q : Queue) : (s.bumpRead q).faWord = s.faWord := by cases q <;> rfl
@[simp] theorem bumpRead_faBuf (s : State) (q : Queue) : (s.bumpRead q).faBuf = s.faBuf := by cases q <;> rfl
@[simp] theorem bumpRead_out (s : State) (q : Queue) : (s.bumpRead q).out = s.out := by cases q <;> rfl
@[simp] theorem bumpRead_cursorsOf (s : State) (q : Queue) (x : BufName) : (s.bumpRead q).cursorsOf x = s.cursorsOf x := by cases q <;> rfl
@[simp] theorem bumpRead_fillPos (s : State) (q : Queue) (x : BufName) : (s.bumpRead q).fillPos x = s.fillPos x := by cases q <;> rfl
@[simp] theorem bumpRead_completeLen (s : State) (q : Queue) (x : BufName) : (s.bumpRead q).completeLen x = s.completeLen x := by cases q <;> rfl
@[simp] theorem bumpRead_idle (s : State) (q : Queue) (x : BufName) : (s.bumpRead q).idle x = s.idle x := by cases q <;> rfl
@[simp] theorem bumpRead_byteAt (s : State) (q : Queue) (x : BufName) (j : Nat) : (s.bumpRead q).byteAt x j = s.byteAt x j := by cases q <;> rfl
@[simp] theorem bumpRead_move (s : State) (q : Queue) : (s.bumpRead q).move = s.move := by cases q <;> rfl

/-! ## raise -/

@[simp] theorem raise_mem (s : State) (k : FaultKind) : (s.raise k).mem = s.mem := rfl
@[simp] theorem raise_cursors (s : State) (k : FaultKind) : (s.raise k).cursors = s.cursors := rfl
@[simp] theorem raise_err (s : State) (k : FaultKind) : (s.raise k).err = if s.updateLost k then s.err else s.err ||| k.mask := rfl
@[simp] theorem raise_cfg (s : State) (k : FaultKind) : (s.raise k).cfg = s.cfg := rfl
@[simp] theorem raise_fsm (s : State) (k : FaultKind) : (s.raise k).fsm = s.fsm := rfl
@[simp] theorem raise_arb (s : State) (k : FaultKind) : (s.raise k).arb = s.arb := rfl
@[simp] theorem raise_attnN (s : State) (k : FaultKind) : (s.raise k).attnN = s.attnN := rfl
@[simp] theorem raise_intW (s : State) (k : FaultKind) : (s.raise k).intW = s.intW := rfl
@[simp] theorem raise_intR (s : State) (k : FaultKind) : (s.raise k).intR = s.intR := rfl
@[simp] theorem raise_reqW (s : State) (k : FaultKind) : (s.raise k).reqW = s.reqW := rfl
@[simp] theorem raise_reqR (s : State) (k : FaultKind) : (s.raise k).reqR = s.reqR := rfl
@[simp] theorem raise_rspW (s : State) (k : FaultKind) : (s.raise k).rspW = s.rspW := rfl
@[simp] theorem raise_rspR (s : State) (k : FaultKind) : (s.raise k).rspR = s.rspR := rfl
@[simp] theorem raise_txi (s : State) (k : FaultKind) : (s.raise k).txi = s.txi := rfl
@[simp] theorem raise_t0 (s : State) (k : FaultKind) : (s.raise k).t0 = s.t0 := rfl
@[simp] theorem raise_now (s : State) (k : FaultKind) : (s.raise k).now = s.now := rfl
@[simp] theorem raise_errFresh (s : State) (k : FaultKind) : (s.raise k).errFresh = s.errFresh := rfl
@[simp] theorem raise_xcvRx (s : State) (k : FaultKind) : (s.raise k).xcvRx = s.xcvRx := rfl
@[simp] theorem raise_tape (s : State) (k : FaultKind) : (s.raise k).tape = s.tape := rfl
@[simp] theorem raise_moves (s : State) (k : FaultKind) : (s.raise k).moves = s.moves := rfl
@[simp] theorem raise_faWord (s : State) (k : FaultKind) : (s.raise k).faWord = s.faWord := rfl
@[simp] theorem raise_faBuf (s : State) (k : FaultKind) : (s.raise k).faBuf = s.faBuf := rfl
@[simp] theorem raise_out (s : State) (k : FaultKind) : (s.raise k).out = { s.out with raised := s.out.raised ||| k.mask } := rfl
@[simp] theorem raise_cursorsOf (s : State) (k : FaultKind) (x : BufName) : (s.raise k).cursorsOf x = s.cursorsOf x := rfl
@[simp] theorem raise_fillPos (s : State) (k : FaultKind) (x : BufName) : (s.raise k).fillPos x = s.fillPos x := rfl
@[simp] theorem raise_completeLen (s : State) (k : FaultKind) (x : BufName) : (s.raise k).completeLen x = s.completeLen x := rfl
@[simp] theorem raise_idle (s : State) (k : FaultKind) (x : BufName) : (s.raise k).idle x = s.idle x := rfl
@[simp] theorem raise_byteAt (s : State) (k : FaultKind) (x : BufName) (j : Nat) : (s.raise k).byteAt x j = s.byteAt x j := rfl
@[simp] theorem raise_writeIdx (s : State) (k : FaultKind) (x : Queue) : (s.raise k).writeIdx x = s.writeIdx x := by cases x <;> rfl
@[simp] theorem raise_readIdx (s : State) (k : FaultKind) (x : Queue) : (s.raise k).readIdx x = s.readIdx x := by cases x <;> rfl
@[simp] theorem raise_count (s : State) (k : FaultKind) (x : Queue) : (s.raise k).count x = s.count x := by cases x <;> rfl
@[simp] theorem raise_move (s : State) (k : FaultKind) : (s.raise k).move = s.move := rfl

/-! ## goto -/

@[simp] theorem goto_mem (s : State) (e : EngineState) : (s.goto e).mem = s.mem := rfl
@[simp] theorem goto_cursors (s : State) (e : EngineState) : (s.goto e).cursors = s.cursors := rfl
@[simp] theorem goto_err (s : State) (e : EngineState) : (s.goto e).err = s.err := rfl
@[simp] theorem goto_cfg (s : State) (e : EngineState) : (s.goto e).cfg = s.cfg := rfl
@[simp] theorem goto_fsm (s : State) (e : EngineState) : (s.goto e).fsm = e.code := rfl
@[simp] theorem goto_arb (s : State) (e : EngineState) : (s.goto e).arb = s.arb := rfl
@[simp] theorem goto_attnN (s : State) (e : EngineState) : (s.goto e).attnN = s.attnN := rfl
@[simp] theorem goto_intW (s : State) (e : EngineState) : (s.goto e).intW = s.intW := rfl
@[simp] theorem goto_intR (s : State) (e : EngineState) : (s.goto e).intR = s.intR := rfl
@[simp] theorem goto_reqW (s : State) (e : EngineState) : (s.goto e).reqW = s.reqW := rfl
@[simp] theorem goto_reqR (s : State) (e : EngineState) : (s.goto e).reqR = s.reqR := rfl
@[simp] theorem goto_rspW (s : State) (e : EngineState) : (s.goto e).rspW = s.rspW := rfl
@[simp] theorem goto_rspR (s : State) (e : EngineState) : (s.goto e).rspR = s.rspR := rfl
@[simp] theorem goto_txi (s : State) (e : EngineState) : (s.goto e).txi = s.txi := rfl
@[simp] theorem goto_t0 (s : State) (e : EngineState) : (s.goto e).t0 = s.t0 := rfl
@[simp] theorem goto_now (s : State) (e : EngineState) : (s.goto e).now = s.now := rfl
@[simp] theorem goto_errFresh (s : State) (e : EngineState) : (s.goto e).errFresh = false := rfl
@[simp] theorem goto_xcvRx (s : State) (e : EngineState) : (s.goto e).xcvRx = s.xcvRx := rfl
@[simp] theorem goto_tape (s : State) (e : EngineState) : (s.goto e).tape = s.tape := rfl
@[simp] theorem goto_moves (s : State) (e : EngineState) : (s.goto e).moves = s.moves := rfl
@[simp] theorem goto_faWord (s : State) (e : EngineState) : (s.goto e).faWord = s.faWord := rfl
@[simp] theorem goto_faBuf (s : State) (e : EngineState) : (s.goto e).faBuf = s.faBuf := rfl
@[simp] theorem goto_out (s : State) (e : EngineState) : (s.goto e).out = s.out := rfl
@[simp] theorem goto_cursorsOf (s : State) (e : EngineState) (x : BufName) : (s.goto e).cursorsOf x = s.cursorsOf x := rfl
@[simp] theorem goto_fillPos (s : State) (e : EngineState) (x : BufName) : (s.goto e).fillPos x = s.fillPos x := rfl
@[simp] theorem goto_completeLen (s : State) (e : EngineState) (x : BufName) : (s.goto e).completeLen x = s.completeLen x := rfl
@[simp] theorem goto_idle (s : State) (e : EngineState) (x : BufName) : (s.goto e).idle x = s.idle x := rfl
@[simp] theorem goto_byteAt (s : State) (e : EngineState) (x : BufName) (j : Nat) : (s.goto e).byteAt x j = s.byteAt x j := rfl
@[simp] theorem goto_writeIdx (s : State) (e : EngineState) (x : Queue) : (s.goto e).writeIdx x = s.writeIdx x := by cases x <;> rfl
@[simp] theorem goto_readIdx (s : State) (e : EngineState) (x : Queue) : (s.goto e).readIdx x = s.readIdx x := by cases x <;> rfl
@[simp] theorem goto_count (s : State) (e : EngineState) (x : Queue) : (s.goto e).count x = s.count x := by cases x <;> rfl
@[simp] theorem goto_move (s : State) (e : EngineState) : (s.goto e).move = s.move := rfl

/-! ## hostReturn -/

@[simp] theorem hostReturn_mem (s : State) (st : Status) (d : Byte) : (s.hostReturn st d).mem = s.mem := rfl
@[simp] theorem hostReturn_cursors (s : State) (st : Status) (d : Byte) : (s.hostReturn st d).cursors = s.cursors := rfl
@[simp] theorem hostReturn_err (s : State) (st : Status) (d : Byte) : (s.hostReturn st d).err = s.err := rfl
@[simp] theorem hostReturn_cfg (s : State) (st : Status) (d : Byte) : (s.hostReturn st d).cfg = s.cfg := rfl
@[simp] theorem hostReturn_fsm (s : State) (st : Status) (d : Byte) : (s.hostReturn st d).fsm = s.fsm := rfl
@[simp] theorem hostReturn_arb (s : State) (st : Status) (d : Byte) : (s.hostReturn st d).arb = s.arb := rfl
@[simp] theorem hostReturn_attnN (s : State) (st : Status) (d : Byte) : (s.hostReturn st d).attnN = s.attnN := rfl
@[simp] theorem hostReturn_intW (s : State) (st : Status) (d : Byte) : (s.hostReturn st d).intW = s.intW := rfl
@[simp] theorem hostReturn_intR (s : State) (st : Status) (d : Byte) : (s.hostReturn st d).intR = s.intR := rfl
@[simp] theorem hostReturn_reqW (s : State) (st : Status) (d : Byte) : (s.hostReturn st d).reqW = s.reqW := rfl
@[simp] theorem hostReturn_reqR (s : State) (st : Status) (d : Byte) : (s.hostReturn st d).reqR = s.reqR := rfl
@[simp] theorem hostReturn_rspW (s : State) (st : Status) (d : Byte) : (s.hostReturn st d).rspW = s.rspW := rfl
@[simp] theorem hostReturn_rspR (s : State) (st : Status) (d : Byte) : (s.hostReturn st d).rspR = s.rspR := rfl
@[simp] theorem hostReturn_txi (s : State) (st : Status) (d : Byte) : (s.hostReturn st d).txi = s.txi := rfl
@[simp] theorem hostReturn_t0 (s : State) (st : Status) (d : Byte) : (s.hostReturn st d).t0 = s.t0 := rfl
@[simp] theorem hostReturn_now (s : State) (st : Status) (d : Byte) : (s.hostReturn st d).now = s.now := rfl
@[simp] theorem hostReturn_errFresh (s : State) (st : Status) (d : Byte) : (s.hostReturn st d).errFresh = false := rfl
@[simp] theorem hostReturn_xcvRx (s : State) (st : Status) (d : Byte) : (s.hostReturn st d).xcvRx = s.xcvRx := rfl
@[simp] theorem hostReturn_tape (s : State) (st : Status) (d : Byte) : (s.hostReturn st d).tape = s.tape := rfl
@[simp] theorem hostReturn_moves (s : State) (st : Status) (d : Byte) : (s.hostReturn st d).moves = s.moves := rfl
@[simp] theorem hostReturn_faWord (s : State) (st : Status) (d : Byte) : (s.hostReturn st d).faWord = s.faWord := rfl
@[simp] theorem hostReturn_faBuf (s : State) (st : Status) (d : Byte) : (s.hostReturn st d).faBuf = s.faBuf := rfl
@[simp] theorem hostReturn_out (s : State) (st : Status) (d : Byte) : (s.hostReturn st d).out = { s.out with result := some { st := st, rdata := d } } := rfl
@[simp] theorem hostReturn_cursorsOf (s : State) (st : Status) (d : Byte) (x : BufName) : (s.hostReturn st d).cursorsOf x = s.cursorsOf x := rfl
@[simp] theorem hostReturn_fillPos (s : State) (st : Status) (d : Byte) (x : BufName) : (s.hostReturn st d).fillPos x = s.fillPos x := rfl
@[simp] theorem hostReturn_completeLen (s : State) (st : Status) (d : Byte) (x : BufName) : (s.hostReturn st d).completeLen x = s.completeLen x := rfl
@[simp] theorem hostReturn_idle (s : State) (st : Status) (d : Byte) (x : BufName) : (s.hostReturn st d).idle x = s.idle x := rfl
@[simp] theorem hostReturn_byteAt (s : State) (st : Status) (d : Byte) (x : BufName) (j : Nat) : (s.hostReturn st d).byteAt x j = s.byteAt x j := rfl
@[simp] theorem hostReturn_writeIdx (s : State) (st : Status) (d : Byte) (x : Queue) : (s.hostReturn st d).writeIdx x = s.writeIdx x := by cases x <;> rfl
@[simp] theorem hostReturn_readIdx (s : State) (st : Status) (d : Byte) (x : Queue) : (s.hostReturn st d).readIdx x = s.readIdx x := by cases x <;> rfl
@[simp] theorem hostReturn_count (s : State) (st : Status) (d : Byte) (x : Queue) : (s.hostReturn st d).count x = s.count x := by cases x <;> rfl
@[simp] theorem hostReturn_move (s : State) (st : Status) (d : Byte) : (s.hostReturn st d).move = s.move := rfl

/-! ## xcvFlush -/

@[simp] theorem xcvFlush_mem (s : State) : (s.xcvFlush).mem = s.mem := rfl
@[simp] theorem xcvFlush_cursors (s : State) : (s.xcvFlush).cursors = s.cursors := rfl
@[simp] theorem xcvFlush_err (s : State) : (s.xcvFlush).err = s.err := rfl
@[simp] theorem xcvFlush_cfg (s : State) : (s.xcvFlush).cfg = s.cfg := rfl
@[simp] theorem xcvFlush_fsm (s : State) : (s.xcvFlush).fsm = s.fsm := rfl
@[simp] theorem xcvFlush_arb (s : State) : (s.xcvFlush).arb = s.arb := rfl
@[simp] theorem xcvFlush_attnN (s : State) : (s.xcvFlush).attnN = s.attnN := rfl
@[simp] theorem xcvFlush_intW (s : State) : (s.xcvFlush).intW = s.intW := rfl
@[simp] theorem xcvFlush_intR (s : State) : (s.xcvFlush).intR = s.intR := rfl
@[simp] theorem xcvFlush_reqW (s : State) : (s.xcvFlush).reqW = s.reqW := rfl
@[simp] theorem xcvFlush_reqR (s : State) : (s.xcvFlush).reqR = s.reqR := rfl
@[simp] theorem xcvFlush_rspW (s : State) : (s.xcvFlush).rspW = s.rspW := rfl
@[simp] theorem xcvFlush_rspR (s : State) : (s.xcvFlush).rspR = s.rspR := rfl
@[simp] theorem xcvFlush_txi (s : State) : (s.xcvFlush).txi = s.txi := rfl
@[simp] theorem xcvFlush_t0 (s : State) : (s.xcvFlush).t0 = s.t0 := rfl
@[simp] theorem xcvFlush_now (s : State) : (s.xcvFlush).now = s.now := rfl
@[simp] theorem xcvFlush_errFresh (s : State) : (s.xcvFlush).errFresh = s.errFresh := rfl
@[simp] theorem xcvFlush_xcvRx (s : State) : (s.xcvFlush).xcvRx = [] := rfl
@[simp] theorem xcvFlush_tape (s : State) : (s.xcvFlush).tape = s.tape := rfl
@[simp] theorem xcvFlush_moves (s : State) : (s.xcvFlush).moves = s.moves := rfl
@[simp] theorem xcvFlush_faWord (s : State) : (s.xcvFlush).faWord = s.faWord := rfl
@[simp] theorem xcvFlush_faBuf (s : State) : (s.xcvFlush).faBuf = s.faBuf := rfl
@[simp] theorem xcvFlush_out (s : State) : (s.xcvFlush).out = { s.out with xcv := some .flush } := rfl
@[simp] theorem xcvFlush_cursorsOf (s : State) (x : BufName) : (s.xcvFlush).cursorsOf x = s.cursorsOf x := rfl
@[simp] theorem xcvFlush_fillPos (s : State) (x : BufName) : (s.xcvFlush).fillPos x = s.fillPos x := rfl
@[simp] theorem xcvFlush_completeLen (s : State) (x : BufName) : (s.xcvFlush).completeLen x = s.completeLen x := rfl
@[simp] theorem xcvFlush_idle (s : State) (x : BufName) : (s.xcvFlush).idle x = s.idle x := rfl
@[simp] theorem xcvFlush_byteAt (s : State) (x : BufName) (j : Nat) : (s.xcvFlush).byteAt x j = s.byteAt x j := rfl
@[simp] theorem xcvFlush_writeIdx (s : State) (x : Queue) : (s.xcvFlush).writeIdx x = s.writeIdx x := by cases x <;> rfl
@[simp] theorem xcvFlush_readIdx (s : State) (x : Queue) : (s.xcvFlush).readIdx x = s.readIdx x := by cases x <;> rfl
@[simp] theorem xcvFlush_count (s : State) (x : Queue) : (s.xcvFlush).count x = s.count x := by cases x <;> rfl
@[simp] theorem xcvFlush_move (s : State) : (s.xcvFlush).move = s.move := rfl

/-! ## xcvSend -/

@[simp] theorem xcvSend_mem (s : State) (b : Byte) : (s.xcvSend b).mem = s.mem := rfl
@[simp] theorem xcvSend_cursors (s : State) (b : Byte) : (s.xcvSend b).cursors = s.cursors := rfl
@[simp] theorem xcvSend_err (s : State) (b : Byte) : (s.xcvSend b).err = s.err := rfl
@[simp] theorem xcvSend_cfg (s : State) (b : Byte) : (s.xcvSend b).cfg = s.cfg := rfl
@[simp] theorem xcvSend_fsm (s : State) (b : Byte) : (s.xcvSend b).fsm = s.fsm := rfl
@[simp] theorem xcvSend_arb (s : State) (b : Byte) : (s.xcvSend b).arb = s.arb := rfl
@[simp] theorem xcvSend_attnN (s : State) (b : Byte) : (s.xcvSend b).attnN = s.attnN := rfl
@[simp] theorem xcvSend_intW (s : State) (b : Byte) : (s.xcvSend b).intW = s.intW := rfl
@[simp] theorem xcvSend_intR (s : State) (b : Byte) : (s.xcvSend b).intR = s.intR := rfl
@[simp] theorem xcvSend_reqW (s : State) (b : Byte) : (s.xcvSend b).reqW = s.reqW := rfl
@[simp] theorem xcvSend_reqR (s : State) (b : Byte) : (s.xcvSend b).reqR = s.reqR := rfl
@[simp] theorem xcvSend_rspW (s : State) (b : Byte) : (s.xcvSend b).rspW = s.rspW := rfl
@[simp] theorem xcvSend_rspR (s : State) (b : Byte) : (s.xcvSend b).rspR = s.rspR := rfl
@[simp] theorem xcvSend_txi (s : State) (b : Byte) : (s.xcvSend b).txi = s.txi := rfl
@[simp] theorem xcvSend_t0 (s : State) (b : Byte) : (s.xcvSend b).t0 = s.t0 := rfl
@[simp] theorem xcvSend_now (s : State) (b : Byte) : (s.xcvSend b).now = s.now := rfl
@[simp] theorem xcvSend_errFresh (s : State) (b : Byte) : (s.xcvSend b).errFresh = s.errFresh := rfl
@[simp] theorem xcvSend_xcvRx (s : State) (b : Byte) : (s.xcvSend b).xcvRx = s.xcvRx := rfl
@[simp] theorem xcvSend_tape (s : State) (b : Byte) : (s.xcvSend b).tape = s.tape := rfl
@[simp] theorem xcvSend_moves (s : State) (b : Byte) : (s.xcvSend b).moves = s.moves := rfl
@[simp] theorem xcvSend_faWord (s : State) (b : Byte) : (s.xcvSend b).faWord = s.faWord := rfl
@[simp] theorem xcvSend_faBuf (s : State) (b : Byte) : (s.xcvSend b).faBuf = s.faBuf := rfl
@[simp] theorem xcvSend_out (s : State) (b : Byte) : (s.xcvSend b).out = { s.out with xcv := some (.exchange b) } := rfl
@[simp] theorem xcvSend_cursorsOf (s : State) (b : Byte) (x : BufName) : (s.xcvSend b).cursorsOf x = s.cursorsOf x := rfl
@[simp] theorem xcvSend_fillPos (s : State) (b : Byte) (x : BufName) : (s.xcvSend b).fillPos x = s.fillPos x := rfl
@[simp] theorem xcvSend_completeLen (s : State) (b : Byte) (x : BufName) : (s.xcvSend b).completeLen x = s.completeLen x := rfl
@[simp] theorem xcvSend_idle (s : State) (b : Byte) (x : BufName) : (s.xcvSend b).idle x = s.idle x := rfl
@[simp] theorem xcvSend_byteAt (s : State) (b : Byte) (x : BufName) (j : Nat) : (s.xcvSend b).byteAt x j = s.byteAt x j := rfl
@[simp] theorem xcvSend_writeIdx (s : State) (b : Byte) (x : Queue) : (s.xcvSend b).writeIdx x = s.writeIdx x := by cases x <;> rfl
@[simp] theorem xcvSend_readIdx (s : State) (b : Byte) (x : Queue) : (s.xcvSend b).readIdx x = s.readIdx x := by cases x <;> rfl
@[simp] theorem xcvSend_count (s : State) (b : Byte) (x : Queue) : (s.xcvSend b).count x = s.count x := by cases x <;> rfl
@[simp] theorem xcvSend_move (s : State) (b : Byte) : (s.xcvSend b).move = s.move := rfl

/-! ## beginStep -/

@[simp] theorem beginStep_mem (s : State) : (s.beginStep).mem = s.mem := rfl
@[simp] theorem beginStep_cursors (s : State) : (s.beginStep).cursors = s.cursors := rfl
@[simp] theorem beginStep_err (s : State) : (s.beginStep).err = s.err := rfl
@[simp] theorem beginStep_cfg (s : State) : (s.beginStep).cfg = s.cfg := rfl
@[simp] theorem beginStep_fsm (s : State) : (s.beginStep).fsm = s.fsm := rfl
@[simp] theorem beginStep_arb (s : State) : (s.beginStep).arb = s.arb := rfl
@[simp] theorem beginStep_attnN (s : State) : (s.beginStep).attnN = s.attnN := rfl
@[simp] theorem beginStep_intW (s : State) : (s.beginStep).intW = s.intW := rfl
@[simp] theorem beginStep_intR (s : State) : (s.beginStep).intR = s.intR := rfl
@[simp] theorem beginStep_reqW (s : State) : (s.beginStep).reqW = s.reqW := rfl
@[simp] theorem beginStep_reqR (s : State) : (s.beginStep).reqR = s.reqR := rfl
@[simp] theorem beginStep_rspW (s : State) : (s.beginStep).rspW = s.rspW := rfl
@[simp] theorem beginStep_rspR (s : State) : (s.beginStep).rspR = s.rspR := rfl
@[simp] theorem beginStep_txi (s : State) : (s.beginStep).txi = s.txi := rfl
@[simp] theorem beginStep_t0 (s : State) : (s.beginStep).t0 = s.t0 := rfl
@[simp] theorem beginStep_now (s : State) : (s.beginStep).now = s.now := rfl
@[simp] theorem beginStep_errFresh (s : State) : (s.beginStep).errFresh = s.errFresh := rfl
@[simp] theorem beginStep_xcvRx (s : State) : (s.beginStep).xcvRx = s.xcvRx ++ s.move.xcvIn := rfl
@[simp] theorem beginStep_tape (s : State) : (s.beginStep).tape = s.tape := rfl
@[simp] theorem beginStep_moves (s : State) : (s.beginStep).moves = s.moves := rfl
@[simp] theorem beginStep_faWord (s : State) : (s.beginStep).faWord = s.faWord := rfl
@[simp] theorem beginStep_faBuf (s : State) : (s.beginStep).faBuf = s.faBuf := rfl
@[simp] theorem beginStep_out (s : State) : (s.beginStep).out = Out.none := rfl
@[simp] theorem beginStep_cursorsOf (s : State) (x : BufName) : (s.beginStep).cursorsOf x = s.cursorsOf x := rfl
@[simp] theorem beginStep_fillPos (s : State) (x : BufName) : (s.beginStep).fillPos x = s.fillPos x := rfl
@[simp] theorem beginStep_completeLen (s : State) (x : BufName) : (s.beginStep).completeLen x = s.completeLen x := rfl
@[simp] theorem beginStep_idle (s : State) (x : BufName) : (s.beginStep).idle x = s.idle x := rfl
@[simp] theorem beginStep_byteAt (s : State) (x : BufName) (j : Nat) : (s.beginStep).byteAt x j = s.byteAt x j := rfl
@[simp] theorem beginStep_writeIdx (s : State) (x : Queue) : (s.beginStep).writeIdx x = s.writeIdx x := by cases x <;> rfl
@[simp] theorem beginStep_readIdx (s : State) (x : Queue) : (s.beginStep).readIdx x = s.readIdx x := by cases x <;> rfl
@[simp] theorem beginStep_count (s : State) (x : Queue) : (s.beginStep).count x = s.count x := by cases x <;> rfl
@[simp] theorem beginStep_move (s : State) : (s.beginStep).move = s.move := rfl

/-! ## endStep -/

@[simp] theorem endStep_mem (s : State) : (s.endStep).mem = s.mem := rfl
@[simp] theorem endStep_cursors (s : State) : (s.endStep).cursors = s.cursors := rfl
@[simp] theorem endStep_err (s : State) : (s.endStep).err = s.err := rfl
@[simp] theorem endStep_cfg (s : State) : (s.endStep).cfg = s.cfg := rfl
@[simp] theorem endStep_fsm (s : State) : (s.endStep).fsm = s.fsm := rfl
@[simp] theorem endStep_arb (s : State) : (s.endStep).arb = s.arb := rfl
@[simp] theorem endStep_attnN (s : State) : (s.endStep).attnN = s.attnN := rfl
@[simp] theorem endStep_intW (s : State) : (s.endStep).intW = s.intW := rfl
@[simp] theorem endStep_intR (s : State) : (s.endStep).intR = s.intR := rfl
@[simp] theorem endStep_reqW (s : State) : (s.endStep).reqW = s.reqW := rfl
@[simp] theorem endStep_reqR (s : State) : (s.endStep).reqR = s.reqR := rfl
@[simp] theorem endStep_rspW (s : State) : (s.endStep).rspW = s.rspW := rfl
@[simp] theorem endStep_rspR (s : State) : (s.endStep).rspR = s.rspR := rfl
@[simp] theorem endStep_txi (s : State) : (s.endStep).txi = s.txi := rfl
@[simp] theorem endStep_t0 (s : State) : (s.endStep).t0 = s.t0 := rfl
@[simp] theorem endStep_now (s : State) : (s.endStep).now = s.now := rfl
@[simp] theorem endStep_errFresh (s : State) : (s.endStep).errFresh = s.errFresh := rfl
@[simp] theorem endStep_xcvRx (s : State) : (s.endStep).xcvRx = s.xcvRx := rfl
@[simp] theorem endStep_tape (s : State) : (s.endStep).tape = s.tape.tail := rfl
@[simp] theorem endStep_moves (s : State) : (s.endStep).moves = s.moves + 1 := rfl
@[simp] theorem endStep_faWord (s : State) : (s.endStep).faWord = s.faWord := rfl
@[simp] theorem endStep_faBuf (s : State) : (s.endStep).faBuf = s.faBuf := rfl
@[simp] theorem endStep_out (s : State) : (s.endStep).out = s.out := rfl
@[simp] theorem endStep_cursorsOf (s : State) (x : BufName) : (s.endStep).cursorsOf x = s.cursorsOf x := rfl
@[simp] theorem endStep_fillPos (s : State) (x : BufName) : (s.endStep).fillPos x = s.fillPos x := rfl
@[simp] theorem endStep_completeLen (s : State) (x : BufName) : (s.endStep).completeLen x = s.completeLen x := rfl
@[simp] theorem endStep_idle (s : State) (x : BufName) : (s.endStep).idle x = s.idle x := rfl
@[simp] theorem endStep_byteAt (s : State) (x : BufName) (j : Nat) : (s.endStep).byteAt x j = s.byteAt x j := rfl
@[simp] theorem endStep_writeIdx (s : State) (x : Queue) : (s.endStep).writeIdx x = s.writeIdx x := by cases x <;> rfl
@[simp] theorem endStep_readIdx (s : State) (x : Queue) : (s.endStep).readIdx x = s.readIdx x := by cases x <;> rfl
@[simp] theorem endStep_count (s : State) (x : Queue) : (s.endStep).count x = s.count x := by cases x <;> rfl

/-! ## tick -/

@[simp] theorem tick_mem (s : State) (e : Nat) : (s.tick e).mem = s.mem := rfl
@[simp] theorem tick_cursors (s : State) (e : Nat) : (s.tick e).cursors = s.cursors := rfl
@[simp] theorem tick_err (s : State) (e : Nat) : (s.tick e).err = s.err := rfl
@[simp] theorem tick_cfg (s : State) (e : Nat) : (s.tick e).cfg = s.cfg := rfl
@[simp] theorem tick_fsm (s : State) (e : Nat) : (s.tick e).fsm = s.fsm := rfl
@[simp] theorem tick_arb (s : State) (e : Nat) : (s.tick e).arb = s.arb := rfl
@[simp] theorem tick_attnN (s : State) (e : Nat) : (s.tick e).attnN = s.attnN := rfl
@[simp] theorem tick_intW (s : State) (e : Nat) : (s.tick e).intW = s.intW := rfl
@[simp] theorem tick_intR (s : State) (e : Nat) : (s.tick e).intR = s.intR := rfl
@[simp] theorem tick_reqW (s : State) (e : Nat) : (s.tick e).reqW = s.reqW := rfl
@[simp] theorem tick_reqR (s : State) (e : Nat) : (s.tick e).reqR = s.reqR := rfl
@[simp] theorem tick_rspW (s : State) (e : Nat) : (s.tick e).rspW = s.rspW := rfl
@[simp] theorem tick_rspR (s : State) (e : Nat) : (s.tick e).rspR = s.rspR := rfl
@[simp] theorem tick_txi (s : State) (e : Nat) : (s.tick e).txi = s.txi := rfl
@[simp] theorem tick_t0 (s : State) (e : Nat) : (s.tick e).t0 = s.t0 := rfl
@[simp] theorem tick_now (s : State) (e : Nat) : (s.tick e).now = s.now + BitVec.ofNat 64 (e + 1) := rfl
@[simp] theorem tick_errFresh (s : State) (e : Nat) : (s.tick e).errFresh = s.errFresh := rfl
@[simp] theorem tick_xcvRx (s : State) (e : Nat) : (s.tick e).xcvRx = s.xcvRx := rfl
@[simp] theorem tick_tape (s : State) (e : Nat) : (s.tick e).tape = s.tape := rfl
@[simp] theorem tick_moves (s : State) (e : Nat) : (s.tick e).moves = s.moves := rfl
@[simp] theorem tick_faWord (s : State) (e : Nat) : (s.tick e).faWord = s.faWord := rfl
@[simp] theorem tick_faBuf (s : State) (e : Nat) : (s.tick e).faBuf = s.faBuf := rfl
@[simp] theorem tick_out (s : State) (e : Nat) : (s.tick e).out = s.out := rfl
@[simp] theorem tick_cursorsOf (s : State) (e : Nat) (x : BufName) : (s.tick e).cursorsOf x = s.cursorsOf x := rfl
@[simp] theorem tick_fillPos (s : State) (e : Nat) (x : BufName) : (s.tick e).fillPos x = s.fillPos x := rfl
@[simp] theorem tick_completeLen (s : State) (e : Nat) (x : BufName) : (s.tick e).completeLen x = s.completeLen x := rfl
@[simp] theorem tick_idle (s : State) (e : Nat) (x : BufName) : (s.tick e).idle x = s.idle x := rfl
@[simp] theorem tick_byteAt (s : State) (e : Nat) (x : BufName) (j : Nat) : (s.tick e).byteAt x j = s.byteAt x j := rfl
@[simp] theorem tick_writeIdx (s : State) (e : Nat) (x : Queue) : (s.tick e).writeIdx x = s.writeIdx x := by cases x <;> rfl
@[simp] theorem tick_readIdx (s : State) (e : Nat) (x : Queue) : (s.tick e).readIdx x = s.readIdx x := by cases x <;> rfl
@[simp] theorem tick_count (s : State) (e : Nat) (x : Queue) : (s.tick e).count x = s.count x := by cases x <;> rfl
@[simp] theorem tick_move (s : State) (e : Nat) : (s.tick e).move = s.move := rfl

/-! ## endFa -/

@[simp] theorem endFa_mem (s : State) : (s.endFa).mem = s.mem := rfl
@[simp] theorem endFa_cursors (s : State) : (s.endFa).cursors = s.cursors := rfl
@[simp] theorem endFa_err (s : State) : (s.endFa).err = s.err := rfl
@[simp] theorem endFa_cfg (s : State) : (s.endFa).cfg = s.cfg := rfl
@[simp] theorem endFa_fsm (s : State) : (s.endFa).fsm = s.fsm := rfl
@[simp] theorem endFa_arb (s : State) : (s.endFa).arb = s.arb := rfl
@[simp] theorem endFa_attnN (s : State) : (s.endFa).attnN = s.attnN := rfl
@[simp] theorem endFa_intW (s : State) : (s.endFa).intW = s.intW := rfl
@[simp] theorem endFa_intR (s : State) : (s.endFa).intR = s.intR := rfl
@[simp] theorem endFa_reqW (s : State) : (s.endFa).reqW = s.reqW := rfl
@[simp] theorem endFa_reqR (s : State) : (s.endFa).reqR = s.reqR := rfl
@[simp] theorem endFa_rspW (s : State) : (s.endFa).rspW = s.rspW := rfl
@[simp] theorem endFa_rspR (s : State) : (s.endFa).rspR = s.rspR := rfl
@[simp] theorem endFa_txi (s : State) : (s.endFa).txi = s.txi := rfl
@[simp] theorem endFa_t0 (s : State) : (s.endFa).t0 = s.t0 := rfl
@[simp] theorem endFa_now (s : State) : (s.endFa).now = s.now := rfl
@[simp] theorem endFa_errFresh (s : State) : (s.endFa).errFresh = s.errFresh := rfl
@[simp] theorem endFa_xcvRx (s : State) : (s.endFa).xcvRx = s.xcvRx := rfl
@[simp] theorem endFa_tape (s : State) : (s.endFa).tape = s.tape := rfl
@[simp] theorem endFa_moves (s : State) : (s.endFa).moves = s.moves := rfl
@[simp] theorem endFa_faWord (s : State) : (s.endFa).faWord = none := rfl
@[simp] theorem endFa_faBuf (s : State) : (s.endFa).faBuf = s.faBuf := rfl
@[simp] theorem endFa_out (s : State) : (s.endFa).out = s.out := rfl
@[simp] theorem endFa_cursorsOf (s : State) (x : BufName) : (s.endFa).cursorsOf x = s.cursorsOf x := rfl
@[simp] theorem endFa_fillPos (s : State) (x : BufName) : (s.endFa).fillPos x = s.fillPos x := rfl
@[simp] theorem endFa_completeLen (s : State) (x : BufName) : (s.endFa).completeLen x = s.completeLen x := rfl
@[simp] theorem endFa_idle (s : State) (x : BufName) : (s.endFa).idle x = s.idle x := rfl
@[simp] theorem endFa_byteAt (s : State) (x : BufName) (j : Nat) : (s.endFa).byteAt x j = s.byteAt x j := rfl
@[simp] theorem endFa_writeIdx (s : State) (x : Queue) : (s.endFa).writeIdx x = s.writeIdx x := by cases x <;> rfl
@[simp] theorem endFa_readIdx (s : State) (x : Queue) : (s.endFa).readIdx x = s.readIdx x := by cases x <;> rfl
@[simp] theorem endFa_count (s : State) (x : Queue) : (s.endFa).count x = s.count x := by cases x <;> rfl
@[simp] theorem endFa_move (s : State) : (s.endFa).move = s.move := rfl

/-! ## The index counters -/

@[simp] theorem bumpWrite_writeIdx (s : State) (q x : Queue) :
    (s.bumpWrite q).writeIdx x = if x = q then s.writeIdx x + 1 else s.writeIdx x := by
  cases q <;> cases x <;> rfl

@[simp] theorem bumpWrite_readIdx (s : State) (q x : Queue) : (s.bumpWrite q).readIdx x = s.readIdx x := by
  cases q <;> cases x <;> rfl

@[simp] theorem bumpRead_readIdx (s : State) (q x : Queue) :
    (s.bumpRead q).readIdx x = if x = q then s.readIdx x + 1 else s.readIdx x := by
  cases q <;> cases x <;> rfl

@[simp] theorem bumpRead_writeIdx (s : State) (q x : Queue) : (s.bumpRead q).writeIdx x = s.writeIdx x := by
  cases q <;> cases x <;> rfl

end Sys2Proof.Machine
end

