-- ==== Sys2Proof/Laws/Memory.lean ====
section
/-! SUPPORT. The laws of storage: what a read gives after a write, that the canonical form is kept, and
that distinct bytes of distinct buffers never share an address (10_state.md R21: never aliased). -/

namespace Sys2Proof.Machine

@[simp] theorem Memory.read_write_same (m : Memory) (a : Nat) (v : Byte) :
    Memory.read (Memory.write m a v) a = some v := by
  induction m with
  | nil => simp [Memory.write, Memory.read]
  | cons c m ih =>
    obtain ⟨a', v'⟩ := c
    simp only [Memory.write]
    split
    · simp [Memory.read]
    · split
      · simp [Memory.read]
      · rename_i h; simp [Memory.read, h, ih]

theorem Memory.read_write_other (m : Memory) {a a' : Nat} (v : Byte) (h : a' ≠ a) :
    Memory.read (Memory.write m a v) a' = Memory.read m a' := by
  induction m with
  | nil => simp [Memory.write, Memory.read, h]
  | cons c m ih =>
    obtain ⟨a₀, v₀⟩ := c
    simp only [Memory.write]
    split
    · simp [Memory.read, h]
    · split
      · rename_i h₀; subst h₀; simp [Memory.read, h]
      · simp only [Memory.read, ih]

theorem Memory.risesFrom_write (m : Memory) (lo a : Nat) (v : Byte) (hlo : lo ≤ a)
    (h : Memory.risesFrom lo m = true) : Memory.risesFrom lo (Memory.write m a v) = true := by
  induction m generalizing lo with
  | nil => simp [Memory.write, Memory.risesFrom, hlo]
  | cons c m ih =>
    obtain ⟨a₀, v₀⟩ := c
    simp only [Memory.risesFrom, Bool.and_eq_true, decide_eq_true_eq] at h
    simp only [Memory.write]
    split
    · simp only [Memory.risesFrom, Bool.and_eq_true, decide_eq_true_eq]
      exact ⟨hlo, by omega, h.2⟩
    · split
      · rename_i h₀; subst h₀
        simp only [Memory.risesFrom, Bool.and_eq_true, decide_eq_true_eq]
        exact ⟨hlo, h.2⟩
      · simp only [Memory.risesFrom, Bool.and_eq_true, decide_eq_true_eq]
        exact ⟨h.1, ih _ (by omega) h.2⟩

theorem Memory.mem_write {m : Memory} {a : Nat} {v : Byte} {c : Host.Cell}
    (h : c ∈ Memory.write m a v) : c = (a, v) ∨ c ∈ m := by
  induction m with
  | nil => simp [Memory.write] at h; exact .inl h
  | cons d m ih =>
    obtain ⟨a₀, v₀⟩ := d
    simp only [Memory.write] at h
    split at h
    · simpa using h
    · split at h
      · rcases List.mem_cons.1 h with h | h
        · exact .inl h
        · exact .inr (List.mem_cons_of_mem _ h)
      · rcases List.mem_cons.1 h with h | h
        · exact .inr (h ▸ List.mem_cons_self)
        · exact (ih h).imp_right (List.mem_cons_of_mem _)

/-- A write at an address of the storage keeps the canonical form. -/
theorem Memory.wf_write {m : Memory} {a : Nat} (v : Byte) (h : Memory.wf m = true)
    (ha : a < storageBytes) : Memory.wf (Memory.write m a v) = true := by
  simp only [Memory.wf, Bool.and_eq_true, List.all_eq_true, decide_eq_true_eq] at h ⊢
  refine ⟨Memory.risesFrom_write m 0 a v (Nat.zero_le _) h.1, fun c hc => ?_⟩
  rcases Memory.mem_write hc with rfl | hc
  · exact ha
  · exact h.2 c hc

theorem reset_mem_wf : Memory.wf State.reset.mem = true := rfl

/-! ## Addresses -/

theorem index_injective : Function.Injective BufName.index := by
  intro b b' h
  have h := congrArg Fin.val h
  rcases b with ⟨s, _ | _⟩ | s | s | _ <;> rcases b' with ⟨s', _ | _⟩ | s' | s' | _ <;>
    simp only [BufName.index, Config.nInt, Config.nReq, Config.nRsp] at h <;>
    first
      | rfl
      | (have := s.isLt; have := s'.isLt; simp only [Config.nInt, Config.nReq, Config.nRsp] at *
         first
          | (exfalso; omega)
          | (have e : s = s' := Fin.ext (by omega); rw [e]))
      | (have := s.isLt; simp only [Config.nInt, Config.nReq, Config.nRsp] at *; exfalso; omega)
      | (have := s'.isLt; simp only [Config.nInt, Config.nReq, Config.nRsp] at *; exfalso; omega)

@[simp] theorem index_inj {b b' : BufName} : b.index = b'.index ↔ b = b' := index_injective.eq_iff

theorem byteAddr_lt (b : BufName) {i : Nat} (h : i < Config.capacity) : byteAddr b i < storageBytes := by
  have := b.index.isLt
  simp only [byteAddr, storageBytes, bufferCount, Config.capacity, Config.nInt, Config.nReq, Config.nRsp] at *
  omega

/-- Two bytes of the storage are the same one only if buffer and index agree (R21, R52). -/
theorem byteAddr_inj {b b' : BufName} {i i' : Nat} (h : i < Config.capacity) (h' : i' < Config.capacity) :
    byteAddr b i = byteAddr b' i' ↔ b = b' ∧ i = i' := by
  constructor
  · intro e
    have hb : b.index.val = b'.index.val := by simp only [byteAddr, Config.capacity] at *; omega
    refine ⟨index_injective (Fin.ext hb), ?_⟩
    simp only [byteAddr, Config.capacity] at *; omega
  · rintro ⟨rfl, rfl⟩; rfl

/-! ## MemRead and MemWrite (R52) -/

@[simp] theorem byteAt_putByte_same (s : State) (b : BufName) (i : Nat) (v : Byte) :
    (s.putByte b i v).byteAt b i = v := by
  simp [State.byteAt, State.putByte]

theorem byteAt_putByte_of_ne (s : State) {b b' : BufName} {i i' : Nat} (v : Byte) (hi : i < Config.capacity)
    (hi' : i' < Config.capacity) (h : ¬(b' = b ∧ i' = i)) :
    (s.putByte b i v).byteAt b' i' = s.byteAt b' i' := by
  have hne : byteAddr b' i' ≠ byteAddr b i := fun e => h ((byteAddr_inj hi' hi).1 e)
  simp only [State.byteAt, State.putByte, Memory.read_write_other _ _ hne]

theorem putByte_wf {s : State} (b : BufName) {i : Nat} (v : Byte) (hi : i < Config.capacity)
    (h : Memory.wf s.mem = true) : Memory.wf (s.putByte b i v).mem = true :=
  Memory.wf_write v h (byteAddr_lt b hi)

/-! ## Cursors -/

@[simp] theorem cursorsOf_setCursors_same (s : State) (b : BufName) (c : Cursors) :
    (s.setCursors b c).cursorsOf b = c := by
  simp only [State.cursorsOf, State.setCursors]
  exact Vector.getElem_set_self _

theorem cursorsOf_setCursors_of_ne (s : State) {b b' : BufName} (c : Cursors) (h : b' ≠ b) :
    (s.setCursors b c).cursorsOf b' = s.cursorsOf b' := by
  have hne : b.index.val ≠ b'.index.val := fun e => h (index_injective (Fin.ext e)).symm
  simp only [State.cursorsOf, State.setCursors]
  exact Vector.getElem_set_ne _ _ hne

@[simp] theorem cursorsOf_setCursors (s : State) (b b' : BufName) (c : Cursors) :
    (s.setCursors b c).cursorsOf b' = if b' = b then c else s.cursorsOf b' := by
  split
  · rename_i h; subst h; simp
  · rename_i h; exact cursorsOf_setCursors_of_ne s c h

@[simp] theorem fillPos_setCursors (s : State) (b b' : BufName) (c : Cursors) :
    (s.setCursors b c).fillPos b' = if b' = b then c.fillPos else s.fillPos b' := by
  simp only [State.fillPos, cursorsOf_setCursors]; split <;> rfl

@[simp] theorem completeLen_setCursors (s : State) (b b' : BufName) (c : Cursors) :
    (s.setCursors b c).completeLen b' = if b' = b then c.completeLen else s.completeLen b' := by
  simp only [State.completeLen, cursorsOf_setCursors]; split <;> rfl

end Sys2Proof.Machine
end

