-- ==== Sys2Proof/Laws/FrameAssembler.lean ====
section
/-! SUPPORT. What FA_APPEND and FA_CLEAR can do, said once (40_frame_assembler.md R90 to R95): the rows
of R92, and the frame of both operations. -/

namespace Sys2Proof.Machine

/-- FA_CLEAR writes one buffer's cursors and nothing else (R91). -/
theorem faClear_eq (s : State) (b : BufName) : s.faClear b = s.setCursors b Cursors.idle := rfl

@[simp] theorem faClear_mem (s : State) (b : BufName) : (s.faClear b).mem = s.mem := rfl

@[simp] theorem faClear_fillPos (s : State) (b x : BufName) :
    (s.faClear b).fillPos x = if x = b then 0 else s.fillPos x := by
  simp [faClear_eq, Cursors.idle]

@[simp] theorem faClear_completeLen (s : State) (b x : BufName) :
    (s.faClear b).completeLen x = if x = b then 0 else s.completeLen x := by
  simp [faClear_eq, Cursors.idle]

@[simp] theorem faClear_byteAt (s : State) (b x : BufName) (j : Nat) :
    (s.faClear b).byteAt x j = s.byteAt x j := rfl

@[simp] theorem setFillPos_fillPos (s : State) (b x : BufName) (p : BitVec 7) :
    (s.setFillPos b p).fillPos x = if x = b then p else s.fillPos x := by
  simp [State.setFillPos]

@[simp] theorem setFillPos_completeLen (s : State) (b x : BufName) (p : BitVec 7) :
    (s.setFillPos b p).completeLen x = s.completeLen x := by
  simp only [State.setFillPos, completeLen_setCursors]
  split
  · rename_i h; subst h; rfl
  · rfl

@[simp] theorem setFillPos_byteAt (s : State) (b x : BufName) (p : BitVec 7) (j : Nat) :
    (s.setFillPos b p).byteAt x j = s.byteAt x j := rfl

@[simp] theorem setCompleteLen_completeLen (s : State) (b x : BufName) (n : Byte) :
    (s.setCompleteLen b n).completeLen x = if x = b then n else s.completeLen x := by
  simp [State.setCompleteLen]

@[simp] theorem setCompleteLen_fillPos (s : State) (b x : BufName) (n : Byte) :
    (s.setCompleteLen b n).fillPos x = s.fillPos x := by
  simp only [State.setCompleteLen, fillPos_setCursors]
  split
  · rename_i h; subst h; rfl
  · rfl

@[simp] theorem setCompleteLen_byteAt (s : State) (b x : BufName) (n : Byte) (j : Nat) :
    (s.setCompleteLen b n).byteAt x j = s.byteAt x j := rfl

/-! ## The rows of R92 -/

theorem faAppend_complete (s : State) (b : BufName) (x : Byte) (h : s.completeLen b ≠ 0) :
    s.faAppend b x = (s, .rejected) := by
  rw [State.faAppend, if_pos h]

theorem faAppend_sof (s : State) (b : BufName) (h : s.completeLen b = 0) :
    s.faAppend b Config.sof = ((s.putByte b 0 Config.sof).setFillPos b 1, .inProgress) := by
  rw [State.faAppend, if_neg (not_not.2 h), if_pos rfl]

theorem faAppend_idle (s : State) (b : BufName) (x : Byte) (h : s.completeLen b = 0) (hf : s.fillPos b = 0)
    (hx : x ≠ Config.sof) : s.faAppend b x = (s, .ignored) := by
  rw [State.faAppend, if_neg (not_not.2 h), if_neg hx, if_pos hf]

theorem faAppend_eof (s : State) (b : BufName) (h : s.completeLen b = 0) (hf : s.fillPos b ≠ 0) :
    s.faAppend b Config.eof =
      (((s.putByte b (s.fillPos b).toNat Config.eof).setCompleteLen b ((s.fillPos b).setWidth 8 + 1)).setFillPos b 0,
        .complete ((s.fillPos b).setWidth 8 + 1)) := by
  rw [State.faAppend, if_neg (not_not.2 h), if_neg (by decide), if_neg hf, if_pos rfl]

theorem faAppend_last (s : State) (b : BufName) (x : Byte) (h : s.completeLen b = 0)
    (hf : (s.fillPos b).toNat = 127) (hx : x ≠ Config.sof) (hx' : x ≠ Config.eof) :
    s.faAppend b x = (s.setFillPos b 0, .overflow) := by
  have h0 : s.fillPos b ≠ 0 := fun e => by rw [e] at hf; exact absurd hf (by decide)
  rw [State.faAppend, if_neg (not_not.2 h), if_neg hx, if_neg h0, if_neg hx', if_pos (by rw [hf])]

theorem faAppend_data (s : State) (b : BufName) (x : Byte) (h : s.completeLen b = 0)
    (hf : s.fillPos b ≠ 0) (hf' : (s.fillPos b).toNat ≠ 127) (hx : x ≠ Config.sof) (hx' : x ≠ Config.eof) :
    s.faAppend b x = ((s.putByte b (s.fillPos b).toNat x).setFillPos b (s.fillPos b + 1), .inProgress) := by
  have h1 : ¬(s.fillPos b).toNat + 1 = Config.capacity := fun e => hf' (Nat.succ.inj e)
  rw [State.faAppend, if_neg (not_not.2 h), if_neg hx, if_neg hf, if_neg hx', if_neg h1]

/-- FA_APPEND ends in one of R92's rows. -/
theorem faAppend_cases (s : State) (b : BufName) (x : Byte) :
    (s.completeLen b ≠ 0 ∧ s.faAppend b x = (s, .rejected)) ∨
    (s.completeLen b = 0 ∧ x = Config.sof ∧
      s.faAppend b x = ((s.putByte b 0 Config.sof).setFillPos b 1, .inProgress)) ∨
    (s.completeLen b = 0 ∧ s.fillPos b = 0 ∧ x ≠ Config.sof ∧ s.faAppend b x = (s, .ignored)) ∨
    (s.completeLen b = 0 ∧ s.fillPos b ≠ 0 ∧ x = Config.eof ∧
      s.faAppend b x =
        (((s.putByte b (s.fillPos b).toNat Config.eof).setCompleteLen b ((s.fillPos b).setWidth 8 + 1)).setFillPos b 0,
          .complete ((s.fillPos b).setWidth 8 + 1))) ∨
    (s.completeLen b = 0 ∧ (s.fillPos b).toNat = 127 ∧ x ≠ Config.sof ∧ x ≠ Config.eof ∧
      s.faAppend b x = (s.setFillPos b 0, .overflow)) ∨
    (s.completeLen b = 0 ∧ s.fillPos b ≠ 0 ∧ (s.fillPos b).toNat ≠ 127 ∧ x ≠ Config.sof ∧ x ≠ Config.eof ∧
      s.faAppend b x =
        ((s.putByte b (s.fillPos b).toNat x).setFillPos b (s.fillPos b + 1), .inProgress)) := by
  by_cases h : s.completeLen b = 0
  · by_cases hx : x = Config.sof
    · exact .inr (.inl ⟨h, hx, hx ▸ faAppend_sof s b h⟩)
    · by_cases hf : s.fillPos b = 0
      · exact .inr (.inr (.inl ⟨h, hf, hx, faAppend_idle s b x h hf hx⟩))
      · by_cases hx' : x = Config.eof
        · exact .inr (.inr (.inr (.inl ⟨h, hf, hx', hx' ▸ faAppend_eof s b h hf⟩)))
        · by_cases hl : (s.fillPos b).toNat = 127
          · exact .inr (.inr (.inr (.inr (.inl ⟨h, hl, hx, hx', faAppend_last s b x h hl hx hx'⟩))))
          · exact .inr (.inr (.inr (.inr (.inr ⟨h, hf, hl, hx, hx', faAppend_data s b x h hf hl hx hx'⟩))))
  · exact .inl ⟨h, faAppend_complete s b x h⟩

/-- FA_APPEND changes storage and cursors alone. -/
theorem faAppend_only (s : State) (b : BufName) (x : Byte) :
    ∃ m c, (s.faAppend b x).1 = { s with mem := m, cursors := c } := by
  rcases faAppend_cases s b x with ⟨_, e⟩ | ⟨_, _, e⟩ | ⟨_, _, _, e⟩ | ⟨_, _, _, e⟩ | ⟨_, _, _, _, e⟩ | ⟨_, _, _, _, _, e⟩ <;>
    rw [e] <;> exact ⟨_, _, rfl⟩

theorem fillPos_lt (s : State) (b : BufName) : (s.fillPos b).toNat < Config.capacity := (s.fillPos b).isLt

/-- FA_APPEND leaves the bytes of every other buffer as they are. -/
theorem faAppend_byteAt_other (s : State) {b b' : BufName} (x : Byte) (j : Nat) (hj : j < Config.capacity)
    (h : b' ≠ b) : (s.faAppend b x).1.byteAt b' j = s.byteAt b' j := by
  have hp := fillPos_lt s b
  have h0 : (0 : Nat) < Config.capacity := by decide
  rcases faAppend_cases s b x with ⟨_, e⟩ | ⟨_, _, e⟩ | ⟨_, _, _, e⟩ | ⟨_, _, _, e⟩ | ⟨_, _, _, _, e⟩ | ⟨_, _, _, _, _, e⟩ <;>
    rw [e] <;> simp only [setFillPos_byteAt, setCompleteLen_byteAt] <;>
    first
      | rfl
      | exact byteAt_putByte_of_ne s _ h0 hj (fun ⟨e, _⟩ => h e)
      | exact byteAt_putByte_of_ne s _ hp hj (fun ⟨e, _⟩ => h e)

/-- FA_APPEND leaves the cursors of every other buffer as they are. -/
theorem faAppend_cursorsOf_other (s : State) {b b' : BufName} (x : Byte) (h : b' ≠ b) :
    (s.faAppend b x).1.cursorsOf b' = s.cursorsOf b' := by
  rcases faAppend_cases s b x with ⟨_, e⟩ | ⟨_, _, e⟩ | ⟨_, _, _, e⟩ | ⟨_, _, _, e⟩ | ⟨_, _, _, _, e⟩ | ⟨_, _, _, _, _, e⟩ <;>
    rw [e] <;> simp [State.setFillPos, State.setCompleteLen, h]

/-- The outcome of FA_APPEND, by the buffer's cursors and the byte (R92). -/
theorem faAppend_outcome (s : State) (b : BufName) (x : Byte) :
    (s.faAppend b x).2 =
      if s.completeLen b ≠ 0 then .rejected
      else if x = Config.sof then .inProgress
      else if s.fillPos b = 0 then .ignored
      else if x = Config.eof then .complete ((s.fillPos b).setWidth 8 + 1)
      else if (s.fillPos b).toNat + 1 = Config.capacity then .overflow
      else .inProgress := by
  simp only [State.faAppend, apply_ite Prod.snd]

/-- The outcome of FA_APPEND depends on the buffer's cursors and the byte alone (R92). -/
theorem faAppend_outcome_congr {s t : State} {b : BufName} (x : Byte) (h : s.cursorsOf b = t.cursorsOf b) :
    (s.faAppend b x).2 = (t.faAppend b x).2 := by
  rw [faAppend_outcome, faAppend_outcome, State.completeLen, State.fillPos, h]; rfl

/-- FA_APPEND keeps the canonical form of storage. -/
theorem faAppend_wf (s : State) (b : BufName) (x : Byte) (h : Memory.wf s.mem = true) :
    Memory.wf (s.faAppend b x).1.mem = true := by
  have hp := fillPos_lt s b
  have h0 : (0 : Nat) < Config.capacity := by decide
  rcases faAppend_cases s b x with ⟨_, e⟩ | ⟨_, _, e⟩ | ⟨_, _, _, e⟩ | ⟨_, _, _, e⟩ | ⟨_, _, _, _, e⟩ | ⟨_, _, _, _, _, e⟩ <;>
    rw [e] <;>
    first
      | exact h
      | exact putByte_wf b _ h0 h
      | exact putByte_wf b _ hp h

/-! ## Feeding (R95, R131) -/

/-- A fed byte is appended, and OVERFLOW raised exactly on that outcome. -/
theorem feed_eq (s : State) (b : BufName) (x : Byte) :
    s.feed b x =
      if (s.faAppend b x).2 = .overflow then ((s.faAppend b x).1.raise .overflow, .overflow) else s.faAppend b x := by
  simp only [State.feed]
  rcases s.faAppend b x with ⟨t, o⟩
  cases o <;> rfl

theorem feed_outcome (s : State) (b : BufName) (x : Byte) : (s.feed b x).2 = (s.faAppend b x).2 := by
  rw [feed_eq]; split
  · rename_i h; exact h.symm
  · rfl

/-- Feeding changes storage, cursors, ERR and the record of raised faults alone. -/
theorem feed_only (s : State) (b : BufName) (x : Byte) :
    ∃ m c e o, (s.feed b x).1 = { s with mem := m, cursors := c, err := e, out := o } := by
  obtain ⟨m, c, h⟩ := faAppend_only s b x
  rw [feed_eq]; split
  · exact ⟨m, c, _, _, by simp only [h, State.raise]; rfl⟩
  · exact ⟨m, c, s.err, s.out, h⟩

theorem feed_mem (s : State) (b : BufName) (x : Byte) : (s.feed b x).1.mem = (s.faAppend b x).1.mem := by
  rw [feed_eq]; split <;> simp

theorem feed_cursorsOf (s : State) (b x' : BufName) (x : Byte) :
    (s.feed b x).1.cursorsOf x' = (s.faAppend b x).1.cursorsOf x' := by
  rw [feed_eq]; split <;> simp

theorem feed_byteAt (s : State) (b x' : BufName) (x : Byte) (j : Nat) :
    (s.feed b x).1.byteAt x' j = (s.faAppend b x).1.byteAt x' j := by
  rw [feed_eq]; split <;> simp

theorem feed_wf (s : State) (b : BufName) (x : Byte) (h : Memory.wf s.mem = true) :
    Memory.wf (s.feed b x).1.mem = true := by
  rw [feed_mem]; exact faAppend_wf s b x h

@[simp] theorem feedOpt_none (s : State) (b : BufName) : s.feedOpt b none = (s, none) := rfl

@[simp] theorem feedOpt_some (s : State) (b : BufName) (x : Byte) :
    s.feedOpt b (some x) = ((s.feed b x).1, some (s.feed b x).2) := rfl

theorem feedOpt_only (s : State) (b : BufName) (x : Option Byte) :
    ∃ m c e o, (s.feedOpt b x).1 = { s with mem := m, cursors := c, err := e, out := o } := by
  cases x with
  | none => exact ⟨_, _, _, _, rfl⟩
  | some x => exact feed_only s b x

theorem feedOpt_wf (s : State) (b : BufName) (x : Option Byte) (h : Memory.wf s.mem = true) :
    Memory.wf (s.feedOpt b x).1.mem = true := by
  cases x with
  | none => exact h
  | some x => exact feed_wf s b x h

end Sys2Proof.Machine
end

