-- ==== Sys2Proof/Laws/SpscQueue.lean ====
section
/-! SUPPORT. What the queue primitives do, said once (41_spsc_queue.md R111 to R120), and what mirroring
and publishing a pair can end in (42_bus_snooper.md R132 to R134). -/

namespace Sys2Proof.Machine

@[simp] theorem qPublish_eq (s : State) (q : Queue) : s.qPublish q = s.bumpWrite q := rfl

theorem qRelease_eq (s : State) (q : Queue) : s.qRelease q = (s.clearHead q).bumpRead q := rfl

/-- A release clears the head slot's cursors: only cursors change. -/
theorem clearHead_only (s : State) (q : Queue) : ∃ c, s.clearHead q = { s with cursors := c } := by
  cases q <;> exact ⟨_, rfl⟩

@[simp] theorem clearHead_byteAt (s : State) (q : Queue) (b : BufName) (j : Nat) :
    (s.clearHead q).byteAt b j = s.byteAt b j := by cases q <;> rfl

@[simp] theorem clearHead_mem (s : State) (q : Queue) : (s.clearHead q).mem = s.mem := by cases q <;> rfl

/-- After a release the head slot's buffers are idle and the others as before (R116). -/
theorem qRelease_cursorsOf (s : State) (q : Queue) (b : BufName) :
    (s.qRelease q).cursorsOf b =
      match q with
      | .int => if b = s.intHead .up ∨ b = s.intHead .dn then Cursors.idle else s.cursorsOf b
      | .req => if b = s.reqHead then Cursors.idle else s.cursorsOf b
      | .rsp => if b = s.rspHead then Cursors.idle else s.cursorsOf b := by
  cases q
  · show ((s.setCursors (s.intHead .up) Cursors.idle).setCursors (s.intHead .dn) Cursors.idle).cursorsOf b = _
    rw [cursorsOf_setCursors, cursorsOf_setCursors]
    by_cases h : b = s.intHead .dn
    · rw [if_pos h, if_pos (.inr h)]
    · by_cases h' : b = s.intHead .up
      · rw [if_neg h, if_pos h', if_pos (.inl h')]
      · rw [if_neg h, if_neg h', if_neg (by rintro (e | e); exacts [h' e, h e])]
  · exact cursorsOf_setCursors s s.reqHead b Cursors.idle
  · exact cursorsOf_setCursors s s.rspHead b Cursors.idle

/-- A release changes cursors and the read index alone. -/
theorem qRelease_only (s : State) (q : Queue) : ∃ c, s.qRelease q = ({ s with cursors := c } : State).bumpRead q := by
  obtain ⟨c, h⟩ := clearHead_only s q
  exact ⟨c, by rw [qRelease_eq, h]⟩

/-! ## Slots (R111, R121) -/

theorem slotOf_nInt (i : Counter) : (slotOf Config.nInt i).val = i.toNat % 2 := by
  have : (i &&& 1#32).toNat = i.toNat % 2 := by
    rw [BitVec.toNat_and]; exact Nat.and_one_is_mod _
  simp [slotOf, Fin.ofNat, this]

theorem slotOf_nRsp (i : Counter) : (slotOf Config.nRsp i).val = i.toNat % 4 := by
  have : (i &&& 3#32).toNat = i.toNat % 4 := by
    rw [BitVec.toNat_and]; exact Nat.and_two_pow_sub_one_eq_mod _ 2
  simp [slotOf, Fin.ofNat, this]

/-! ## The copy of a frame (R120) -/

/-- Copying changes storage alone. -/
theorem copyBytes_only (s : State) (src dst : BufName) (n : Nat) :
    ∃ m, s.copyBytes src dst n = { s with mem := m } := by
  induction n with
  | zero => exact ⟨s.mem, rfl⟩
  | succ n ih =>
    obtain ⟨m, h⟩ := ih
    exact ⟨_, by simp only [State.copyBytes, h, State.putByte]; rfl⟩

theorem copyBytes_wf (s : State) (src dst : BufName) (n : Nat) (hn : n ≤ Config.capacity)
    (h : Memory.wf s.mem = true) : Memory.wf (s.copyBytes src dst n).mem = true := by
  induction n with
  | zero => exact h
  | succ n ih => exact putByte_wf dst _ (by omega) (ih (by omega))

/-- After the copy the destination holds the source's first bytes, and every other byte is as before. -/
theorem copyBytes_byteAt (s : State) {src dst : BufName} (hne : src ≠ dst) (n : Nat) (hn : n ≤ Config.capacity)
    (b : BufName) (j : Nat) (hj : j < Config.capacity) :
    (s.copyBytes src dst n).byteAt b j = if b = dst ∧ j < n then s.byteAt src j else s.byteAt b j := by
  induction n generalizing b j with
  | zero => simp [State.copyBytes]
  | succ n ih =>
    simp only [State.copyBytes]
    by_cases h : b = dst ∧ j = n
    · obtain ⟨rfl, rfl⟩ := h
      rw [byteAt_putByte_same, ih (by omega) src j hj]
      simp [hne]
    · rw [byteAt_putByte_of_ne _ _ (by omega) hj h, ih (by omega) b j hj]
      by_cases hb : b = dst
      · have : j ≠ n := fun e => h ⟨hb, e⟩
        simp only [hb, true_and]
        by_cases hlt : j < n
        · simp [hlt, Nat.lt_succ_of_lt hlt]
        · have : ¬ j < n + 1 := by omega
          simp [hlt, this]
      · simp [hb]

/-! ## RSP_PUSH (R120) -/

/-- A push that answers a state either dropped the copy with BP_RSP or placed it in the write slot. -/
theorem rspPush_cases {s t : State} {src : BufName} (h : s.rspPush src = .ok t) :
    (s.qFull .rsp = true ∧ t = s.raise .bpRsp) ∨
    (s.qFull .rsp = false ∧ (s.completeLen src).toNat ≤ Config.capacity ∧
      t = ((s.copyBytes src s.rspTail (s.completeLen src).toNat).setCursors s.rspTail
        { fillPos := 0, completeLen := s.completeLen src }).bumpWrite .rsp) := by
  simp only [State.rspPush] at h
  split at h
  · rename_i hf; exact .inl ⟨hf, (Except.ok.inj h).symm⟩
  · rename_i hf
    split at h
    · rename_i hl
      exact .inr ⟨by simpa using hf, by simpa [State.lenInCapacity] using hl, (Except.ok.inj h).symm⟩
    · cases h

/-- A push of a buffer whose length is in the capacity answers a state. -/
theorem rspPush_ok (s : State) (src : BufName) (h : (s.completeLen src).toNat ≤ Config.capacity) :
    ∃ t, s.rspPush src = .ok t := by
  simp only [State.rspPush]
  split
  · exact ⟨_, rfl⟩
  · simp only [State.lenInCapacity, decide_eq_true h, if_true]; exact ⟨_, rfl⟩

/-- A push changes storage, cursors, ERR, RSP_W and the record of raised faults alone. -/
theorem rspPush_only {s t : State} {src : BufName} (h : s.rspPush src = .ok t) :
    ∃ m c e w o, t = { s with mem := m, cursors := c, err := e, rspW := w, out := o } := by
  rcases rspPush_cases h with ⟨_, rfl⟩ | ⟨_, _, rfl⟩
  · exact ⟨_, _, _, _, _, rfl⟩
  · obtain ⟨m, hm⟩ := copyBytes_only s src s.rspTail (s.completeLen src).toNat
    rw [hm]
    exact ⟨_, _, _, _, _, rfl⟩

theorem rspPush_wf {s t : State} {src : BufName} (h : s.rspPush src = .ok t) (hw : Memory.wf s.mem = true) :
    Memory.wf t.mem = true := by
  rcases rspPush_cases h with ⟨_, rfl⟩ | ⟨_, hl, rfl⟩
  · simpa using hw
  · simpa using copyBytes_wf s src s.rspTail _ hl hw

/-! ## Mirroring and publishing a pair -/

theorem mirrorOne_cases {s t : State} {w : Fin Config.nInt} {c : Chan} (h : s.mirrorOne w c = .ok t) :
    t = s ∨ (s.completeLen (.int w c) ≠ 0 ∧ s.rspPush (.int w c) = .ok t) := by
  simp only [State.mirrorOne] at h
  split at h
  · exact .inl (Except.ok.inj h).symm
  · split at h
    · rename_i hl; exact .inr ⟨hl, h⟩
    · exact .inl (Except.ok.inj h).symm

theorem mirrorOne_only {s t : State} {w : Fin Config.nInt} {c : Chan} (h : s.mirrorOne w c = .ok t) :
    ∃ m cs e r o, t = { s with mem := m, cursors := cs, err := e, rspW := r, out := o } := by
  rcases mirrorOne_cases h with rfl | ⟨_, h⟩
  · exact ⟨_, _, _, _, _, rfl⟩
  · exact rspPush_only h

theorem mirrorOne_wf {s t : State} {w : Fin Config.nInt} {c : Chan} (h : s.mirrorOne w c = .ok t)
    (hw : Memory.wf s.mem = true) : Memory.wf t.mem = true := by
  rcases mirrorOne_cases h with rfl | ⟨_, h⟩
  · exact hw
  · exact rspPush_wf h hw

/-- Mirroring is two tries, one for each channel, in the order of MIRROR_ORDER. -/
theorem mirror_cases {s t : State} {w : Fin Config.nInt} (h : s.mirror w = .ok t) :
    ∃ c c' u, c ≠ c' ∧ s.mirrorOne w c = .ok u ∧ u.mirrorOne w c' = .ok t := by
  simp only [State.mirror] at h
  split at h
  · cases hu : s.mirrorOne w .up with
    | error f => simp [hu, Except.bind] at h
    | ok u => exact ⟨.up, .dn, u, by decide, hu, by simpa [hu, Except.bind] using h⟩
  · cases hu : s.mirrorOne w .dn with
    | error f => simp [hu, Except.bind] at h
    | ok u => exact ⟨.dn, .up, u, by decide, hu, by simpa [hu, Except.bind] using h⟩

theorem mirror_only {s t : State} {w : Fin Config.nInt} (h : s.mirror w = .ok t) :
    ∃ m cs e r o, t = { s with mem := m, cursors := cs, err := e, rspW := r, out := o } := by
  obtain ⟨_, _, u, _, h₁, h₂⟩ := mirror_cases h
  obtain ⟨_, _, _, _, _, rfl⟩ := mirrorOne_only h₁
  obtain ⟨_, _, _, _, _, rfl⟩ := mirrorOne_only h₂
  exact ⟨_, _, _, _, _, rfl⟩

theorem mirror_wf {s t : State} {w : Fin Config.nInt} (h : s.mirror w = .ok t)
    (hw : Memory.wf s.mem = true) : Memory.wf t.mem = true := by
  obtain ⟨_, _, u, _, h₁, h₂⟩ := mirror_cases h
  exact mirrorOne_wf h₂ (mirrorOne_wf h₁ hw)

/-- A pair is published as it stands, or after mirroring when ROUTE is 1. -/
theorem publishPair_cases {s t : State} {w : Fin Config.nInt} (h : s.publishPair w = .ok t) :
    (s.route = false ∧ t = s.bumpWrite .int) ∨
    (s.route = true ∧ ∃ u, s.mirror w = .ok u ∧ t = u.bumpWrite .int) := by
  simp only [State.publishPair] at h
  split at h
  · rename_i hr
    cases hu : s.mirror w with
    | error f => simp [hu, Except.map] at h
    | ok u => exact .inr ⟨hr, u, rfl, by simpa [hu, Except.map] using h.symm⟩
  · rename_i hr
    exact .inl ⟨by simpa using hr, (Except.ok.inj h).symm⟩

/-- A dropped pair: BP_INT raised and both buffers idle (R134). -/
theorem dropPair_eq (s : State) (w : Fin Config.nInt) :
    s.dropPair w = ((s.raise .bpInt).setCursors (.int w .up) Cursors.idle).setCursors (.int w .dn) Cursors.idle := rfl

end Sys2Proof.Machine
end

