-- ==== Sys2Proof/Laws/Exec.lean ====
section
/-! SUPPORT. What the host commands, the ENGINE steps with several ends, and the step of the machine can
answer, said once. -/

namespace Sys2Proof.Machine

/-! ## Results of the host port -/

/-- A refused command returns its status and changes nothing else (R76). -/
theorem hostRefuse_next {s t : State} {st : Status} (h : s.hostRefuse st = .next t) : t = s.hostReturn st 0x00 :=
  (Host.Outcome.next.inj h).symm

/-- Reading a frame answers a byte below the frame's length, or RANGE (R199, R202). -/
theorem readFrame_eq (s : State) (b : BufName) (idx : Byte) :
    s.readFrame b idx =
      if idx.toNat < (s.completeLen b).toNat then .next (s.hostReturn .ok (s.byteAt b idx.toNat))
      else .next (s.hostReturn .range 0x00) := rfl

/-! ## Feeding, in the words of the statements (R95, R131) -/

theorem feedOpt_fedWith (s : State) (b : BufName) (offer : Option Byte) :
    (s.feedOpt b offer).1 = fedWith s b offer := by
  cases offer with
  | none => rfl
  | some x =>
    simp only [feedOpt_some, feed_eq, fedWith]
    split <;> simp [State.raise, State.updateLost, errAfter, FaultKind.mask, FaultKind.code, and_assoc, and_left_comm]

theorem feedOpt_outcome (s : State) (b : BufName) (offer : Option Byte) :
    (s.feedOpt b offer).2 = offerOutcome s b offer := by
  cases offer with
  | none => rfl
  | some x => simp [offerOutcome, feed_outcome]

/-! ## The end of a capture poll -/

/-- The deadline is reached when TICK_HZ ticks have passed since T0 (R162). -/
theorem deadline_iff (s : State) : s.deadline = true ↔ Config.params.tickHz ≤ (s.now - s.t0).toNat := by
  simp only [State.deadline, decide_eq_true_eq]; rfl

/-- An S_CAP step without a complete frame ends in S_ABORT with TIMEOUT, or stays in S_CAP (R155). -/
theorem capDeadline_cases (s : State) :
    (s.deadline = true ∧ s.capDeadline = (s.raise .timeout).goto .abort) ∨
    (s.deadline = false ∧ s.capDeadline = s.goto .cap) := by
  by_cases h : s.deadline = true
  · exact .inl ⟨h, if_pos h⟩
  · exact .inr ⟨by simpa using h, if_neg h⟩

/-! ## S_SNOOP -/

/-- The state after both channels are fed (R131). -/
theorem snoop_fed_only (s : State) (w : Fin Config.nInt) :
    ∃ m c e o, (((s.feedOpt (.int w .up) s.move.up).1).feedOpt (.int w .dn) s.move.dn).1 =
      { s with mem := m, cursors := c, err := e, out := o } := by
  obtain ⟨m, c, e, o, h⟩ := feedOpt_only s (.int w .up) s.move.up
  obtain ⟨m', c', e', o', h'⟩ := feedOpt_only (s.feedOpt (.int w .up) s.move.up).1 (.int w .dn) s.move.dn
  exact ⟨m', c', e', o', by rw [h', h]⟩

/-- An S_SNOOP step that answers a state published the pair, dropped it, or only fed the bytes (R130). -/
theorem execSSnoop_cases {s t : State} (h : execSSnoop s = .next t) :
    ∃ fed, fed = (((s.feedOpt (.int s.workingSlot .up) s.move.up).1).feedOpt (.int s.workingSlot .dn) s.move.dn).1 ∧
      ((∃ n, (s.feedOpt (.int s.workingSlot .up) s.move.up).2 = some (.complete n) ∧
          ((fed.qFull .int = true ∧ t = (fed.dropPair s.workingSlot).goto .eval) ∨
           (fed.qFull .int = false ∧ ∃ u, fed.publishPair s.workingSlot = .ok u ∧ t = u.goto .eval))) ∨
       ((∀ n, (s.feedOpt (.int s.workingSlot .up) s.move.up).2 ≠ some (.complete n)) ∧ t = fed.goto .eval)) := by
  refine ⟨_, rfl, ?_⟩
  simp only [execSSnoop] at h
  split at h
  · rename_i n hn
    refine .inl ⟨n, hn, ?_⟩
    split at h
    · rename_i hf; exact .inl ⟨hf, (Host.Outcome.next.inj h).symm⟩
    · rename_i hf
      split at h
      · rename_i u hu; exact .inr ⟨by simpa using hf, u, hu, (Host.Outcome.next.inj h).symm⟩
      · cases h
  · rename_i hn; exact .inr ⟨hn, (Host.Outcome.next.inj h).symm⟩

/-! ## The injector's steps -/

theorem execSEval_cases {s t : State} (h : execSEval s = .next t) :
    (s.mayInject = true ∧ t = { s with arb := true, t0 := s.now }.goto .guard) ∨
    (s.mayInject = false ∧ t = s.goto .snoop) := by
  simp only [execSEval] at h
  split at h
  · rename_i hm; exact .inl ⟨hm, (Host.Outcome.next.inj h).symm⟩
  · rename_i hm; exact .inr ⟨by simpa using hm, (Host.Outcome.next.inj h).symm⟩

theorem execSGuard_cases {s t : State} (h : execSGuard s = .next t) :
    (s.elapsed < Config.params.guardTicks ∧ t = s) ∨
    (Config.params.guardTicks ≤ s.elapsed ∧ s.move.ready = true ∧ t = s.goto .validate) ∨
    (Config.params.guardTicks ≤ s.elapsed ∧ s.move.ready = false ∧ t = { s with arb := false }.goto .snoop) := by
  simp only [execSGuard] at h
  split at h
  · rename_i hg; exact .inl ⟨hg, (Host.Outcome.next.inj h).symm⟩
  · rename_i hg
    split at h
    · rename_i hr; exact .inr (.inl ⟨by omega, hr, (Host.Outcome.next.inj h).symm⟩)
    · rename_i hr; exact .inr (.inr ⟨by omega, by simpa using hr, (Host.Outcome.next.inj h).symm⟩)

theorem execSValidate_cases {s t : State} (h : execSValidate s = .next t) :
    (s.completeLen s.reqHead).toNat ≤ Config.capacity ∧
    ((s.requestFramed = true ∧ t = { s.xcvFlush with attnN := false, txi := 0 }.goto .tx) ∨
     (s.requestFramed = false ∧ t = { (s.raise .framing).qRelease .req with arb := false }.goto .snoop)) := by
  simp only [execSValidate] at h
  split at h
  · rename_i hl
    refine ⟨by simpa [State.lenInCapacity] using hl, ?_⟩
    split at h
    · rename_i hf; exact .inl ⟨hf, (Host.Outcome.next.inj h).symm⟩
    · rename_i hf; exact .inr ⟨by simpa using hf, (Host.Outcome.next.inj h).symm⟩
  · cases h

theorem execSTx_cases {s t : State} (h : execSTx s = .next t) :
    (s.move.clock = none ∧ t = s) ∨
    (∃ lb, s.move.clock = some lb ∧ s.txi.toNat < Config.capacity ∧
      ((s.txi + 1 = s.completeLen s.reqHead ∧
          t = { { s.xcvSend (s.byteAt s.reqHead s.txi.toNat) with txi := s.txi + 1 }.faClear .cap with
                t0 := s.now }.goto .cap) ∨
       (s.txi + 1 ≠ s.completeLen s.reqHead ∧
          t = { s.xcvSend (s.byteAt s.reqHead s.txi.toNat) with txi := s.txi + 1 }.goto .tx))) := by
  simp only [execSTx] at h
  split at h
  · rename_i hc; exact .inl ⟨hc, (Host.Outcome.next.inj h).symm⟩
  · rename_i lb hc
    split at h
    · rename_i hl
      refine .inr ⟨lb, hc, hl, ?_⟩
      split at h
      · rename_i hn; exact .inl ⟨hn, (Host.Outcome.next.inj h).symm⟩
      · rename_i hn; exact .inr ⟨hn, (Host.Outcome.next.inj h).symm⟩
    · cases h

theorem execSCap_cases {s t : State} (h : execSCap s = .next t) :
    (s.xcvRx = [] ∧ t = s.capDeadline) ∨
    (∃ x rest, s.xcvRx = x :: rest ∧
      ((x = 0x00 ∧ s.fillPos .cap = 1 ∧ t = (({ s with xcvRx := rest } : State).raise .glitch).capDeadline) ∨
       (¬(x = 0x00 ∧ s.fillPos .cap = 1) ∧
         ((∃ n, (({ s with xcvRx := rest } : State).feed .cap x).2 = .complete n ∧
             t = (({ s with xcvRx := rest } : State).feed .cap x).1.goto .commit) ∨
          ((∀ n, (({ s with xcvRx := rest } : State).feed .cap x).2 ≠ .complete n) ∧
             t = (({ s with xcvRx := rest } : State).feed .cap x).1.capDeadline))))) := by
  simp only [execSCap] at h
  split at h
  · rename_i hr; exact .inl ⟨hr, (Host.Outcome.next.inj h).symm⟩
  · rename_i x rest hr
    refine .inr ⟨x, rest, hr, ?_⟩
    have hg : ({ s with xcvRx := rest } : State).glitch x = true ↔ x = 0x00 ∧ s.fillPos .cap = 1 := by
      simp only [State.glitch, Bool.and_eq_true, beq_iff_eq]
      rfl
    split at h
    · rename_i hgl
      exact .inl ⟨(hg.1 hgl).1, (hg.1 hgl).2, (Host.Outcome.next.inj h).symm⟩
    · rename_i hgl
      refine .inr ⟨fun e => hgl (hg.2 e), ?_⟩
      split at h
      · rename_i u n hu
        exact .inl ⟨n, by rw [hu], by rw [hu]; exact (Host.Outcome.next.inj h).symm⟩
      · rename_i u o hno hu
        refine .inr ⟨fun n hn => ?_, by rw [hu]; exact (Host.Outcome.next.inj h).symm⟩
        rw [hu] at hn
        exact hno n hn

theorem execSCommit_cases {s t : State} (h : execSCommit s = .next t) :
    ∃ u, ({ s with arb := false, attnN := true } : State).rspPush .cap = .ok u ∧
      t = ((u.qRelease .req).faClear .cap).goto .snoop := by
  simp only [execSCommit] at h
  split at h
  · rename_i u hu; exact ⟨u, hu, (Host.Outcome.next.inj h).symm⟩
  · cases h

theorem execSAbort_next {s t : State} (h : execSAbort s = .next t) :
    t = ({ s with arb := false, attnN := true }.faClear .cap).goto .snoop :=
  (Host.Outcome.next.inj h).symm

/-! ## The step of the machine -/

theorem endOutcome_next {f : State → State} {o : Host.Outcome State Fault Refusal} {t : State}
    (h : endOutcome f o = .next t) : ∃ u, o = .next u ∧ t = f u := by
  cases o with
  | next u => exact ⟨u, rfl, (Host.Outcome.next.inj h).symm⟩
  | fault r => cases h
  | refused r => cases h

/-- A step that answers a state ran an operation, answered a reserved opcode, advanced NOW, or held HOST. -/
theorem step_cases {s t : State} (h : step s = .next t) :
    (∃ i u, s.fetch = .run i ∧ exec i s.beginStep = .next u ∧ t = u.endStep) ∨
    (∃ i u, s.fetch = .runFa i ∧ exec i { s with out := Out.none } = .next u ∧ t = u.endFa) ∨
    (s.fetch = .illegal ∧ t = (s.beginStep.hostReturn .illegal 0x00).endStep) ∨
    (∃ e, s.fetch = .tick e ∧ t = (s.beginStep.tick e).endStep) ∨
    (s.fetch = .hold ∧ t = s.beginStep.endStep) := by
  simp only [step] at h
  split at h
  · rename_i i hf
    obtain ⟨u, hu, rfl⟩ := endOutcome_next h
    exact .inl ⟨i, u, hf, hu, rfl⟩
  · rename_i i hf
    obtain ⟨u, hu, rfl⟩ := endOutcome_next h
    exact .inr (.inl ⟨i, u, hf, hu, rfl⟩)
  · rename_i hf
    obtain ⟨u, hu, rfl⟩ := endOutcome_next h
    exact .inr (.inr (.inl ⟨hf, by rw [hostRefuse_next hu]⟩))
  · rename_i e hf; exact .inr (.inr (.inr (.inl ⟨e, hf, (Host.Outcome.next.inj h).symm⟩)))
  · rename_i hf; exact .inr (.inr (.inr (.inr ⟨hf, (Host.Outcome.next.inj h).symm⟩)))
  · cases h

/-- A HOST step is enabled in S_SNOOP and, under DUAL, in every state (R190, R238). -/
theorem hostEnabled_iff (s : State) :
    s.hostEnabled = true ↔ s.fsm = EngineState.snoop.code ∨ Config.params.sched = .dual := by
  simp [State.hostEnabled]

/-- Which operation a step runs: the one FSM names for ENGINE, the one the word encodes for HOST. -/
theorem fetch_run {s : State} {i : Instr} (h : s.fetch = .run i) :
    s.faWord = none ∧
    ((s.move.turn = .engine ∧ decodeFsm4 s.fsm = .ok i) ∨
     (∃ w, s.move.turn = .host w ∧ s.hostEnabled = true ∧ decodeCmd32 w = .ok i)) := by
  simp only [State.fetch] at h
  split at h
  · cases h
  · rename_i hw
    refine ⟨hw, ?_⟩
    simp only [State.fetchTurn] at h
    split at h
    · rename_i ht
      split at h
      · rename_i j hj; cases h; exact .inl ⟨ht, hj⟩
      · cases h
    · rename_i w ht
      split at h
      · rename_i he
        split at h
        · rename_i j hj; cases h; exact .inr ⟨w, ht, he, hj⟩
        · cases h
      · cases h
    · cases h

/-- A frame-assembler operation on its own comes from an FA9 word that was placed. -/
theorem fetch_runFa {s : State} {i : Instr} (h : s.fetch = .runFa i) :
    ∃ w, s.faWord = some w ∧ i = decodeFa9 w := by
  simp only [State.fetch] at h
  split at h
  · rename_i w hw; cases h; exact ⟨w, hw, rfl⟩
  · simp only [State.fetchTurn] at h
    split at h
    · split at h <;> cases h
    · split at h
      · split at h <;> cases h
      · cases h
    · cases h

/-- The eight legal codes of FSM and the steps they select (R78). -/
theorem decodeFsm4_format {c : BitVec 4} {i : Instr} (h : decodeFsm4 c = .ok i) : i.format = .fsm4 := by
  unfold decodeFsm4 at h
  split at h <;> first | (cases h; rfl) | cases h

/-- The operations of CMD32 words are host commands (R73). -/
theorem decodeCmd32_format {w : Word} {i : Instr} (h : decodeCmd32 w = .ok i) : i.format = .cmd32 := by
  unfold decodeCmd32 at h
  split at h <;> first | (cases h; rfl) | cases h

end Sys2Proof.Machine
end

