-- ==== Sys2Proof/Laws/PerInstr.lean ====
section
/-! SUPPORT. The family of statements made per instruction: the encoded word lies in the instruction's
format and carries the fixed field of its row of spec/opcode_table.json. -/

namespace Sys2Proof.Laws

/-- The value of a row's fixed field (`fixed` in spec/opcode_table.json), by constructor: bits 31:24 of a
CMD32 word, bits 3:0 of an FSM4 code, bit 8 of an FA9 word. -/
def fixedValue : Instr → Nat
  | .nop => 0x00
  | .rdreg _ _ => 0x01
  | .wrreg _ _ => 0x02
  | .errClear => 0x03
  | .qcount _ => 0x04
  | .reqWrite _ _ => 0x10
  | .reqSetlen _ => 0x11
  | .reqPublish => 0x12
  | .intRead _ _ => 0x20
  | .intLen _ => 0x21
  | .intRelease => 0x22
  | .rspRead _ => 0x30
  | .rspLen => 0x31
  | .rspRelease => 0x32
  | .sSnoop => 0x00
  | .sEval => 0x01
  | .sGuard => 0x02
  | .sValidate => 0x03
  | .sTx => 0x04
  | .sCap => 0x05
  | .sCommit => 0x06
  | .sAbort => 0x07
  | .faAppend _ => 0x00
  | .faClear => 0x01

namespace TableBits

/-- The word of `i` has `i`'s format and carries the fixed field of `i`'s row. -/
def Statement (i : Instr) : Prop :=
  match encode i with
  | .cmd32 w => i.format = .cmd32 ∧ (opOf w).toNat = fixedValue i
  | .fsm4 c => i.format = .fsm4 ∧ c.toNat = fixedValue i
  | .fa9 w => i.format = .fa9 ∧ (w.extractLsb' 8 1).toNat = fixedValue i

theorem nop : Statement .nop := ⟨rfl, congrArg BitVec.toNat (opOf_enc _ _ _ _)⟩

theorem rdreg (sel idx : Byte) : Statement (.rdreg sel idx) := ⟨rfl, congrArg BitVec.toNat (opOf_enc _ _ _ _)⟩

theorem wrreg (sel data : Byte) : Statement (.wrreg sel data) := ⟨rfl, congrArg BitVec.toNat (opOf_enc _ _ _ _)⟩

theorem errClear : Statement .errClear := ⟨rfl, congrArg BitVec.toNat (opOf_enc _ _ _ _)⟩

theorem qcount (sel : Byte) : Statement (.qcount sel) := ⟨rfl, congrArg BitVec.toNat (opOf_enc _ _ _ _)⟩

theorem reqWrite (idx data : Byte) : Statement (.reqWrite idx data) := ⟨rfl, congrArg BitVec.toNat (opOf_enc _ _ _ _)⟩

theorem reqSetlen (data : Byte) : Statement (.reqSetlen data) := ⟨rfl, congrArg BitVec.toNat (opOf_enc _ _ _ _)⟩

theorem reqPublish : Statement .reqPublish := ⟨rfl, congrArg BitVec.toNat (opOf_enc _ _ _ _)⟩

theorem intRead (sel idx : Byte) : Statement (.intRead sel idx) := ⟨rfl, congrArg BitVec.toNat (opOf_enc _ _ _ _)⟩

theorem intLen (sel : Byte) : Statement (.intLen sel) := ⟨rfl, congrArg BitVec.toNat (opOf_enc _ _ _ _)⟩

theorem intRelease : Statement .intRelease := ⟨rfl, congrArg BitVec.toNat (opOf_enc _ _ _ _)⟩

theorem rspRead (idx : Byte) : Statement (.rspRead idx) := ⟨rfl, congrArg BitVec.toNat (opOf_enc _ _ _ _)⟩

theorem rspLen : Statement .rspLen := ⟨rfl, congrArg BitVec.toNat (opOf_enc _ _ _ _)⟩

theorem rspRelease : Statement .rspRelease := ⟨rfl, congrArg BitVec.toNat (opOf_enc _ _ _ _)⟩

theorem sSnoop : Statement .sSnoop := ⟨rfl, rfl⟩

theorem sEval : Statement .sEval := ⟨rfl, rfl⟩

theorem sGuard : Statement .sGuard := ⟨rfl, rfl⟩

theorem sValidate : Statement .sValidate := ⟨rfl, rfl⟩

theorem sTx : Statement .sTx := ⟨rfl, rfl⟩

theorem sCap : Statement .sCap := ⟨rfl, rfl⟩

theorem sCommit : Statement .sCommit := ⟨rfl, rfl⟩

theorem sAbort : Statement .sAbort := ⟨rfl, rfl⟩

theorem faAppend (byte : Byte) : Statement (.faAppend byte) := ⟨rfl, by
  have h : (0#1 ++ byte).extractLsb' 8 1 = 0#1 := by
    ext i hi
    have : i = 0 := by omega
    subst this
    simp only [BitVec.getElem_extractLsb', BitVec.getLsbD_append]
    simp
  exact congrArg BitVec.toNat h⟩

theorem faClear : Statement .faClear := ⟨rfl, rfl⟩

end TableBits

end Sys2Proof.Laws
end

