-- ==== Sys2Proof/Tests/Slice0.lean ====
section
/-! SUPPORT. Tests: the well-formedness smoke, words written out from the spec's encodings, one or two
vectors of 95_test_vectors.md for each operation, and for every statement that has hypotheses a state and
operands that meet them together. -/

namespace Sys2Proof.Tests

open Sys2Proof Sys2Proof.Machine

/-! ## Small states -/

/-- The outcome is a next state of which the test holds. -/
def gives (o : Host.Outcome State Fault Refusal) (p : State → Bool) : Bool :=
  match o with
  | .next t => p t
  | .fault _ => false
  | .refused _ => false

/-- Bytes written from place `i` of a buffer on. -/
def bytesFrom (s : State) (b : BufName) (i : Nat) : List Byte → State
  | [] => s
  | x :: rest => bytesFrom (s.putByte b i x) b (i + 1) rest

/-- A buffer that is filling and holds the bytes. -/
def filling (s : State) (b : BufName) (bytes : List Byte) : State :=
  (bytesFrom s b 0 bytes).setCursors b { fillPos := BitVec.ofNat 7 bytes.length, completeLen := 0 }

/-- A buffer that is complete and holds the bytes. -/
def holding (s : State) (b : BufName) (bytes : List Byte) : State :=
  (bytesFrom s b 0 bytes).setCursors b { fillPos := 0, completeLen := BitVec.ofNat 8 bytes.length }

/-- The state with the given move next. -/
def on (s : State) (m : Move) : State := { s with tape := [m] }

/-- ENGINE's move on a quiet bus. -/
def eng : Move := Move.quiet .engine

/-- The result a command returned. -/
def returned (st : Status) (d : Byte) (t : State) : Bool := t.out.result == some { st := st, rdata := d }

def r0 : State := State.reset

/-- One request `F0 01 F7` queued (the start of 95_test_vectors.md section 2.4). -/
def reqd : State := { holding r0 (.req 0) [0xF0, 0x01, 0xF7] with reqW := 1, now := 500 }

/-- UP filling `F0 10`, DN complete `F0 20 F7` (vector SN-2). -/
def sn2 : State := holding (filling r0 (.int 0 .up) [0xF0, 0x10]) (.int 0 .dn) [0xF0, 0x20, 0xF7]

/-- CAP complete `F0 05 F7`, the request queued, in S_COMMIT (vector IN-25). -/
def com : State := { holding reqd .cap [0xF0, 0x05, 0xF7] with fsm := 0x6, arb := true, attnN := false }

/-- A published pair UP `F0 10 F7`, DN filling `F0 20` (vectors H-24 to H-26). -/
def pair : State := { filling (holding r0 (.int 0 .up) [0xF0, 0x10, 0xF7]) (.int 0 .dn) [0xF0, 0x20] with intW := 1 }

/-- A published response `F0 05 F7`. -/
def resp : State := { holding r0 (.rsp 0) [0xF0, 0x05, 0xF7] with rspW := 1 }

/-! ## Well-formedness: an ill-formed term for each check -/

theorem test_wf_depths : sizesWf Config.nInt Config.nReq Config.nRsp Config.ctrW = true := by decide
theorem test_wf_depth_not_power : depthWf 3 = false := by decide
theorem test_wf_depth_zero : depthWf 0 = false := by decide
theorem test_wf_depth_over_128 : depthWf 256 = false := by decide
theorem test_wf_int_depth_one : sizesWf 1 1 4 32 = false := by decide
theorem test_wf_counter_narrow : sizesWf 2 1 4 3 = false := by decide
/-- The arguments that R6 shows. -/
def shown : Arguments :=
  { nInt := 2, nReq := 1, nRsp := 4, ctrW := 32, tickHz := 1000000, guardTicks := 0, sched := .dual,
    mirrorOrder := .upFirst, errLostUpdates := false }

theorem test_args_tick_rate_zero : { shown with tickHz := 0 }.accept = .error .outsideConstraints := by decide
theorem test_args_int_depth_one : { shown with nInt := 1 }.accept = .error .outsideConstraints := by decide
theorem test_args_other_depth : { shown with nRsp := 8 }.accept = .error .otherSizes := by decide
theorem test_args_shown : shown.accept = .ok Config.defaults := by decide
theorem test_range_rdreg_sel : (Instr.rdreg 0x09 0).inRange = false := by decide
theorem test_range_rdreg_lane : (Instr.rdreg 0x00 4).inRange = false := by decide
theorem test_range_wrreg : (Instr.wrreg 0x0A 1).inRange = false := by decide
theorem test_range_qcount : (Instr.qcount 0x03).inRange = false := by decide
theorem test_range_req_write : (Instr.reqWrite 0x80 0x55).inRange = false := by decide
theorem test_range_req_setlen : (Instr.reqSetlen 129).inRange = false := by decide
theorem test_range_int_read_sel : (Instr.intRead 2 0).inRange = false := by decide
theorem test_range_int_read_idx : (Instr.intRead 0 128).inRange = false := by decide
theorem test_range_int_len : (Instr.intLen 2).inRange = false := by decide
theorem test_range_rsp_read : (Instr.rspRead 0x80).inRange = false := by decide

/-! ## Decoding: one word of each row, written out from R71, R73, R78, R80 (section 2.5's words) -/

theorem test_dec_nop : decodeTableWord 32 0x00ABCDEF = some .nop := by decide
theorem test_dec_rdreg : decodeTableWord 32 0x01030200 = some (.rdreg 0x03 0x02) := by decide
theorem test_dec_wrreg : decodeTableWord 32 0x020100FF = some (.wrreg 0x01 0xFF) := by decide
theorem test_dec_err_clear : decodeTableWord 32 0x03000000 = some .errClear := by decide
theorem test_dec_qcount : decodeTableWord 32 0x04020000 = some (.qcount 0x02) := by decide
theorem test_dec_req_write : decodeTableWord 32 0x10008055 = some (.reqWrite 0x80 0x55) := by decide
theorem test_dec_req_setlen : decodeTableWord 32 0x11000081 = some (.reqSetlen 0x81) := by decide
theorem test_dec_req_publish : decodeTableWord 32 0x12000000 = some .reqPublish := by decide
theorem test_dec_int_read : decodeTableWord 32 0x20010300 = some (.intRead 0x01 0x03) := by decide
theorem test_dec_int_len : decodeTableWord 32 0x21010000 = some (.intLen 0x01) := by decide
theorem test_dec_int_release : decodeTableWord 32 0x22000000 = some .intRelease := by decide
theorem test_dec_rsp_read : decodeTableWord 32 0x30000200 = some (.rspRead 0x02) := by decide
theorem test_dec_rsp_len : decodeTableWord 32 0x31000000 = some .rspLen := by decide
theorem test_dec_rsp_release : decodeTableWord 32 0x32000000 = some .rspRelease := by decide
theorem test_dec_reserved_05 : decode (.cmd32 0x05000000) = .error .reservedOpcode := by decide
theorem test_dec_reserved_FF : decodeTableWord 32 0xFFFFFFFF = none := by decide
theorem test_dec_fsm : (List.range 8).map (decodeTableWord 8) =
    [some .sSnoop, some .sEval, some .sGuard, some .sValidate, some .sTx, some .sCap, some .sCommit, some .sAbort] := by
  decide
theorem test_dec_fsm_reserved : decodeTableWord 8 0x8 = none := by decide
theorem test_dec_fa_append : decodeTableWord 16 0x0F7 = some (.faAppend 0xF7) := by decide
theorem test_dec_fa_clear : decodeTableWord 16 0x1F7 = some .faClear := by decide
theorem test_enc_int_read : encode (.intRead 0x01 0x03) = .cmd32 0x20010300 := by decide

/-! ## Assembler text (R82) -/

theorem test_asm_rdreg : asmText (.rdreg 0x00 0) = "RDREG ERR, 0" := by decide
theorem test_asm_int_read : asmText (.intRead 0x01 3) = "INT_READ DN, 3" := by decide
theorem test_asm_req_send : (expandPseudo (.reqSend [0xF0, 0xF7])).map encode =
    [.cmd32 0x100000F0, .cmd32 0x100001F7, .cmd32 0x11000002, .cmd32 0x12000000] := by decide

/-! ## Host commands (section 2.5) -/

theorem test_nop : gives (exec .nop r0) (returned .ok 0x00) = true := by decide
theorem test_rdreg_status : gives (exec (.rdreg 0x02 0) { com with fsm := 0x5 })
    (fun t => t.out.result.isSome) = true := by decide
/-- H-7. -/
theorem test_rdreg_status_in_capture :
    gives (exec (.rdreg 0x02 0) (on { com with fsm := 0x5 } eng)) (returned .ok 0x15) = true := by decide
/-- H-8, lane 1. -/
theorem test_rdreg_lane : gives (exec (.rdreg 0x03 1) { r0 with intW := 0x12345678 }) (returned .ok 0x56) = true := by
  decide
/-- H-9. -/
theorem test_wrreg_cfg : gives (exec (.wrreg 0x01 0xFF) r0) (fun t => t.cfg == 0x03 && returned .ok 0x00 t) = true := by
  decide
/-- H-10. -/
theorem test_wrreg_err : gives (exec (.wrreg 0x00 0) { r0 with err := 0x05 })
    (fun t => t.err == 0x05 && returned .illegal 0x00 t) = true := by decide
/-- H-12. -/
theorem test_err_clear : gives (exec .errClear { r0 with err := 0x05 })
    (fun t => t.err == 0x00 && returned .ok 0x05 t) = true := by decide
/-- H-13. -/
theorem test_qcount : gives (exec (.qcount 0x02) { r0 with rspW := 3, rspR := 1 }) (returned .ok 0x02) = true := by decide
/-- H-15. -/
theorem test_req_write : gives (exec (.reqWrite 0 0xF0) r0)
    (fun t => t.byteAt (.req 0) 0 == 0xF0 && returned .ok 0x00 t) = true := by decide
/-- H-17. -/
theorem test_req_write_full : gives (exec (.reqWrite 0 0x55) reqd)
    (fun t => t.byteAt (.req 0) 0 == 0xF0 && t.err == 0 && returned .full 0x00 t) = true := by decide
/-- H-18. -/
theorem test_req_setlen : gives (exec (.reqSetlen 128) r0)
    (fun t => t.completeLen (.req 0) == 128 && returned .ok 0x00 t) = true := by decide
/-- H-20. -/
theorem test_req_publish : gives (exec .reqPublish r0) (fun t => t.reqW == 1 && returned .ok 0x00 t) = true := by decide
/-- H-21. -/
theorem test_req_publish_full : gives (exec .reqPublish reqd)
    (fun t => t.err == 0x20 && t.reqW == 1 && returned .full 0x00 t) = true := by decide
/-- H-23: the field check comes first. -/
theorem test_int_read_field_first : gives (exec (.intRead 2 0) r0) (returned .range 0x00) = true := by decide
/-- R199's example. -/
theorem test_int_read : gives (exec (.intRead 0 1) pair) (returned .ok 0x10) = true := by decide
/-- H-26. -/
theorem test_int_len_dn_filling : gives (exec (.intLen 1) pair) (returned .ok 0x00) = true := by decide
/-- H-28. -/
theorem test_int_release : gives (exec .intRelease pair)
    (fun t => t.intR == 1 && t.idle (.int 0 .up) && t.idle (.int 0 .dn) && returned .ok 0x00 t) = true := by decide
/-- R202's example. -/
theorem test_rsp_read : gives (exec (.rspRead 2) resp) (returned .ok 0xF7) = true := by decide
theorem test_rsp_len : gives (exec .rspLen resp) (returned .ok 0x03) = true := by decide
/-- R204's example. -/
theorem test_rsp_release : gives (exec .rspRelease resp)
    (fun t => t.rspR == 1 && t.idle (.rsp 0) && returned .ok 0x00 t) = true := by decide

/-! ## Frame assembler (section 2.1) -/

/-- FA-5: a start marker restarts. -/
theorem test_fa_restart : gives (exec (.faAppend 0xF0) (filling r0 .cap [0xF0, 0x01, 0x02]))
    (fun t => t.fillPos .cap == 1 && t.out.fa == some .inProgress) = true := by decide
/-- FA-8 at fill position 127, the byte that would be the 128th. -/
theorem test_fa_overflow :
    gives (exec (.faAppend 0x00) (r0.setCursors .cap { fillPos := 127, completeLen := 0 }))
      (fun t => t.idle .cap && t.mem == [] && t.out.fa == some .overflow) = true := by decide
/-- FA-14. -/
theorem test_fa_clear : gives (exec .faClear (holding r0 .cap [0xF0, 0x01, 0x02, 0xF7]))
    (fun t => t.idle .cap && t.byteAt .cap 1 == 0x01) = true := by decide

/-! ## ENGINE steps (sections 2.3, 2.4) -/

/-- SN-3: UP first, then DN, and the pair published. -/
theorem test_snoop_mirror (h : Config.params = Config.defaults) :
    gives (exec .sSnoop (on { sn2 with cfg := 0x01 } { eng with up := some 0xF7 }))
      (fun t => t.intW == 1 && t.rspW == 2 && t.byteAt (.rsp 0) 1 == 0x10 && t.byteAt (.rsp 1) 1 == 0x20) = true := by
  simp only [exec, execSSnoop, State.publishPair, State.mirror, h]; decide
/-- SN-6, with the pair waiting in slot 1. -/
theorem test_snoop_drop : gives (exec .sSnoop (on { sn2 with intW := 2, intR := 1 } { eng with up := some 0xF7 }))
    (fun t => t.intW == 2 && t.err == 0x10 && t.idle (.int 0 .up) && t.idle (.int 0 .dn)) = true := by decide
/-- IN-4. -/
theorem test_eval : gives (exec .sEval (on reqd { eng with ready := true }))
    (fun t => t.arb && t.t0 == 500 && t.fsm == 0x2) = true := by decide
/-- IN-2. -/
theorem test_eval_dn_complete :
    gives (exec .sEval (on (holding reqd (.int 0 .dn) [0xF0, 0x01, 0x02, 0xF7]) { eng with ready := true }))
      (fun t => !t.arb && t.fsm == 0x0) = true := by decide
/-- IN-6. -/
theorem test_guard (h : Config.params = Config.defaults) :
    gives (exec .sGuard (on { reqd with arb := true, t0 := 500 } eng))
      (fun t => !t.arb && t.fsm == 0x0 && t.reqR == 0) = true := by
  simp only [exec, execSGuard, h]; decide
/-- IN-5: the guard holds. -/
theorem test_guard_holds (h : Config.params.guardTicks = 10) :
    gives (exec .sGuard (on { reqd with fsm := 0x2, t0 := 500, now := 505 } { eng with ready := true }))
      (fun t => t.fsm == 0x2) = true := by
  simp only [exec, execSGuard, h]; decide
/-- IN-11. -/
theorem test_validate : gives (exec .sValidate { holding reqd (.req 0) [0xF0, 0xF7] with xcvRx := [0x55] })
    (fun t => !t.attnN && t.fsm == 0x4 && t.xcvRx == []) = true := by decide
/-- IN-10. -/
theorem test_validate_unframed : gives (exec .sValidate { holding reqd (.req 0) [0xF7, 0x01, 0xF7] with arb := true })
    (fun t => t.err == 0x01 && t.reqR == 1 && !t.arb && t.fsm == 0x0) = true := by decide
/-- IN-14. -/
theorem test_tx_last : gives (exec .sTx (on { reqd with txi := 2, now := 900 } { eng with clock := some 0x55 }))
    (fun t => t.txi == 3 && t.t0 == 900 && t.fsm == 0x5 && t.out.xcv == some (.exchange 0xF7)) = true := by decide
/-- IN-15: the bus master does not clock. -/
theorem test_tx_holds : gives (exec .sTx (on { reqd with txi := 1, fsm := 0x4 } eng))
    (fun t => t.txi == 1 && t.fsm == 0x4) = true := by decide
/-- IN-19. -/
theorem test_cap_glitch : gives (exec .sCap { filling r0 .cap [0xF0] with xcvRx := [0x00] })
    (fun t => t.err == 0x08 && t.fillPos .cap == 1 && t.fsm == 0x5) = true := by decide
/-- IN-17. -/
theorem test_cap_timeout (h : Config.params = Config.defaults) :
    gives (exec .sCap { r0 with t0 := 900, now := 1000900 }) (fun t => t.err == 0x04 && t.fsm == 0x7) = true := by
  simp only [exec, execSCap, State.capDeadline, State.deadline, h]; decide
/-- IN-25. -/
theorem test_commit : gives (exec .sCommit com)
    (fun t => t.rspW == 1 && t.reqR == 1 && t.byteAt (.rsp 0) 1 == 0x05 && t.idle .cap && !t.arb && t.attnN) = true := by
  decide
/-- IN-26. -/
theorem test_commit_full : gives (exec .sCommit { com with rspW := 4 })
    (fun t => t.err == 0x40 && t.rspW == 4 && t.reqR == 1) = true := by decide
/-- IN-27. -/
theorem test_abort : gives (exec .sAbort { filling reqd .cap [0xF0, 0x01] with arb := true, attnN := false })
    (fun t => !t.arb && t.attnN && t.idle .cap && t.reqR == 0) = true := by decide

/-! ## The step -/

/-- H-33: a reserved opcode. -/
theorem test_step_illegal : gives (step (on r0 (Move.quiet (.host 0x05000000)))) (returned .illegal 0x00) = true := by decide
/-- H-37: SCHED = SINGLE during a transaction. -/
theorem test_step_single_holds (h : Config.params.sched = .single) :
    gives (step (on { r0 with fsm := 0x4 } (Move.quiet (.host 0x03000000))))
      (fun t => t.out.result == none && t.fsm == 0x4) = true := by
  have e : (on { r0 with fsm := 0x4 } (Move.quiet (.host 0x03000000))).fetch = .hold := by
    show (if State.hostEnabled _ then _ else _) = _
    simp only [State.hostEnabled, h]; rfl
  rw [step, e]; decide
theorem test_step_timer : gives (step (on r0 (Move.quiet (.timer 99)))) (fun t => t.now == 100) = true := by decide
theorem test_step_placed_host : gives (step (r0.withFetchWord 32 0x020100FF)) (fun t => t.cfg == 0x03) = true := by decide
theorem test_step_placed_engine : gives (step (r0.withFetchWord 8 0x7)) (fun t => t.fsm == 0x0) = true := by decide
theorem test_step_placed_fa :
    gives (step (r0.withFetchWord 16 0x0F0)) (fun t => t.fillPos .cap == 1 && t.faWord == none) = true := by decide
/-- R62: the first fault after an ERR_CLEAR may be lost. -/
theorem test_lost_update (h : Config.params.errLostUpdates = true) :
    gives (exec .reqPublish (on { reqd with errFresh := true } { eng with lost := 0x20 }))
      (fun t => t.err == 0x00 && t.out.raised == 0x20) = true := by
  simp only [exec, execReqPublish, State.raise, State.updateLost, h]; decide

/-! ## Witnesses: the hypotheses of a statement met together, each clause at a boundary -/

theorem witness_ReqWriteStoresOneByte :
    127 < (0x80 : Byte).toNat ∧ ((0x7F : Byte).toNat ≤ 127 ∧ reqd.reqW - reqd.reqR = 1) ∧
      ((0x7F : Byte).toNat ≤ 127 ∧ r0.reqW - r0.reqR ≠ 1) := by decide

theorem witness_ReqSetlenSetsLength :
    128 < (0x81 : Byte).toNat ∧ ((0x80 : Byte).toNat ≤ 128 ∧ reqd.reqW - reqd.reqR = 1) ∧
      ((0x80 : Byte).toNat ≤ 128 ∧ r0.reqW - r0.reqR ≠ 1) := by decide

theorem witness_ReleasesFreeTheHeadSlot :
    r0.intW - r0.intR = 0 ∧ pair.intW - pair.intR ≠ 0 ∧ r0.rspW - r0.rspR = 0 ∧ resp.rspW - resp.rspR ≠ 0 := by decide

theorem witness_OutOfRangeFieldHasNoEffect : (Instr.reqSetlen 129).inRange = false := by decide

theorem witness_HostCommandsAnswerAndLeaveTheEngine : (Instr.reqWrite 0 0xF0).format = .cmd32 := rfl

/-- The head pair is released and the buffer is the response of another slot. -/
theorem witness_HostCommandsKeepToOwnedBuffers :
    ∃ t, Instr.intRelease.format = .cmd32 ∧ exec .intRelease pair = .next t ∧
      (∀ c, pair.intW - pair.intR ≠ 0 → BufName.rsp 3 ≠ .int (Fin.ofNat 2 pair.intR.toNat) c) ∧
      (pair.rspW - pair.rspR ≠ 0 → BufName.rsp 3 ≠ .rsp (Fin.ofNat 4 pair.rspR.toNat)) ∧
      (pair.reqW - pair.reqR ≠ 1 → BufName.rsp 3 ≠ .req 0) :=
  ⟨_, rfl, rfl, fun _ _ => nofun, fun h => absurd rfl h, fun _ => by decide⟩

/-- Storage that differs in a byte of the free slot alone. -/
theorem witness_HostCannotObserveStaleBytes :
    ∃ t u, (Instr.rspRead 2).format = .cmd32 ∧
      (∀ b j, j < (r0.completeLen b).toNat →
        ({ r0 with mem := [(0, 0x55)] } : State).byteAt b j = r0.byteAt b j) ∧
      exec (.rspRead 2) r0 = .next t ∧ exec (.rspRead 2) { r0 with mem := [(0, 0x55)] } = .next u := by
  refine ⟨_, _, rfl, fun b j h => ?_, rfl, rfl⟩
  rcases b with ⟨s, _ | _⟩ | s | s | _ <;> (try fin_cases s) <;> exact absurd h (Nat.not_lt_zero j)

theorem witness_FrameAssemblerKeepsItsInvariant : FrameOk com .cap :=
  ⟨fun _ => by decide, fun h => absurd rfl h⟩

theorem witness_MarkedSequenceCompletesOneFrame :
    r0.idle .cap = true ∧ (List.replicate 126 (0x41 : Byte)).length ≤ 126 ∧
      ∀ x ∈ List.replicate 126 (0x41 : Byte), isData x = true :=
  ⟨by decide, by simp, fun x h => by rw [List.eq_of_mem_replicate h]; decide⟩

theorem witness_UnterminatedSequenceOverflows :
    r0.idle .cap = true ∧ (List.replicate 126 (0x41 : Byte)).length = 126 ∧
      (∀ x ∈ List.replicate 126 (0x41 : Byte), isData x = true) ∧ isData 0x00 = true ∧
      ∀ y ∈ [(0x41 : Byte)], isData y = true :=
  ⟨by decide, by simp, fun x h => by rw [List.eq_of_mem_replicate h]; decide, by decide, by decide⟩

/-- A response of 128 bytes. -/
theorem witness_RspPushCopiesTheFrame :
    let s := r0.setCursors .cap { fillPos := 0, completeLen := 128 }
    BufName.cap ≠ s.rspTail ∧ (s.completeLen .cap).toNat ≤ 128 ∧ s.rspW - s.rspR ≠ 4 := by decide

theorem witness_SnoopAlwaysReachesEval :
    let s := r0.setCursors (.int 0 .dn) { fillPos := 0, completeLen := 128 }
    (s.completeLen (.int s.workingSlot .dn)).toNat ≤ 128 := by decide

/-- UP's byte that is no end marker, DN at fill position 127 with the byte that overflows (SN-8), and UP's
end marker (SN-2). -/
theorem witness_SnoopFeedsThenPublishes :
    (let s := on (sn2.setCursors (.int 0 .dn) { fillPos := 127, completeLen := 0 }) { eng with up := some 0x11, dn := some 0x33 }
     (∀ n, offerOutcome s (.int s.workingSlot .up) s.move.up ≠ some (.complete n)) ∧
       offerOutcome s (.int s.workingSlot .dn) s.move.dn = some .overflow) ∧
    (let s := on sn2 { eng with up := some 0xF7 }
     offerOutcome s (.int s.workingSlot .up) s.move.up = some (.complete 3) ∧ s.intW - s.intR = 0 ∧
       s.cfg.getLsbD 0 = false) := by
  refine ⟨⟨fun n h => ?_, by decide⟩, by decide⟩
  cases h

theorem witness_SnoopDropsThePairWhenFull :
    let s := on { sn2 with intW := 2, intR := 1 } { eng with up := some 0xF7 }
    offerOutcome s (.int s.workingSlot .up) s.move.up = some (.complete 3) ∧ 1 ≤ (s.intW - s.intR).toNat := by decide

/-- SN-3 with two responses waiting, so that the last two slots are taken; SN-5, with one slot free; SN-4,
with NOREQ 1; and SN-11 with ROUTE 1, where DN is not complete. -/
theorem witness_SnoopMirrorsIntoFreeSlots :
    ∀ start ∈ [{ sn2 with cfg := 0x01, rspW := 2 }, { sn2 with cfg := 0x01, rspW := 3 }, { sn2 with cfg := 0x03 },
        { filling sn2 (.int 0 .dn) [0xF0, 0x20] with cfg := 0x01 }],
      let s := on start { eng with up := some 0xF7 }
      let fed := fedWith (fedWith s (.int s.workingSlot .up) s.move.up) (.int s.workingSlot .dn) s.move.dn
      offerOutcome s (.int s.workingSlot .up) s.move.up = some (.complete 3) ∧ s.intW - s.intR = 0 ∧
        s.cfg.getLsbD 0 = true ∧ (fed.completeLen (.int s.workingSlot .dn)).toNat ≤ 128 ∧
        (s.rspW - s.rspR).toNat < 4 := by decide

/-- In SN-5 both frames are to be mirrored, in SN-4 the DN frame alone, and without a complete DN frame the
UP frame alone. -/
theorem test_mirrored_frames (h : Config.params = Config.defaults) :
    let full := holding sn2 (.int 0 .up) [0xF0, 0x10, 0xF7]
    mirroredFrames full 0 = [.up, .dn] ∧ mirroredFrames { full with cfg := 0x03 } 0 = [.dn] ∧
      mirroredFrames (filling full (.int 0 .dn) [0xF0, 0x20]) 0 = [.up] := by
  simp only [mirroredFrames, h]; decide

/-- SN-5: the first copy takes the last slot, and the second is dropped with BP_RSP. -/
theorem test_snoop_mirror_one_slot (h : Config.params = Config.defaults) :
    gives (exec .sSnoop (on { sn2 with cfg := 0x01, rspW := 3 } { eng with up := some 0xF7 }))
      (fun t => t.intW == 1 && t.rspW == 4 && t.byteAt (.rsp 3) 1 == 0x10 && t.err == 0x40) = true := by
  simp only [exec, execSSnoop, State.publishPair, State.mirror, h]; decide

theorem witness_SnoopPublishesDespiteFullResponses :
    let s := on { sn2 with cfg := 0x03, rspW := 4 } { eng with up := some 0xF7 }
    offerOutcome s (.int s.workingSlot .up) s.move.up = some (.complete 3) ∧ s.intW - s.intR = 0 ∧
      s.cfg.getLsbD 0 = true ∧ s.rspW - s.rspR = 4 := by decide

/-- A framed request, and one of the length 128 whose first byte is no marker. -/
theorem witness_ValidateStartsOrDiscardsTheRequest :
    ((reqd.completeLen (.req 0)).toNat ≤ 128 ∧ (reqd.completeLen (.req 0)).toNat ≠ 0 ∧
      reqd.byteAt (.req 0) 0 = 0xF0 ∧ reqd.byteAt (.req 0) ((reqd.completeLen (.req 0)).toNat - 1) = 0xF7) ∧
    (let s := (holding r0 (.req 0) [0xF7]).setCompleteLen (.req 0) 128
     (s.completeLen (.req 0)).toNat ≤ 128 ∧ s.byteAt (.req 0) 0 ≠ 0xF0) := by decide

/-- No clock; a clock with bytes left; a clock for the last byte. -/
theorem witness_TransmitSendsOneByteAClock :
    (on reqd eng).move.clock = none ∧
    (let s := on reqd { eng with clock := some 0x55 }
     s.move.clock = some 0x55 ∧ s.txi.toNat < 128 ∧ s.txi + 1 ≠ s.completeLen (.req 0)) ∧
    (let s := on ({ reqd with txi := 127 }.setCompleteLen (.req 0) 128) { eng with clock := some 0x55 }
     s.move.clock = some 0x55 ∧ s.txi.toNat < 128 ∧ s.txi + 1 = s.completeLen (.req 0)) := by decide

theorem witness_CapturePollTestsDeadline : r0.xcvRx = [] := rfl

theorem witness_CaptureFiltersTheGlitch :
    let s : State := { filling r0 .cap [0xF0] with xcvRx := [0x00, 0x05] }
    s.xcvRx = 0x00 :: [0x05] ∧ s.fillPos .cap = 1 := by decide

theorem witness_CaptureCompletionBeatsDeadline :
    let s : State := { filling r0 .cap [0xF0, 0x05] with xcvRx := [0xF7], now := 2000000 }
    s.xcvRx = 0xF7 :: [] ∧ s.fillPos .cap ≠ 0 ∧ s.completeLen .cap = 0 := by decide

/-- 0xF0 at an idle CAP, and the 128th byte, which overflows (IN-22). -/
theorem witness_CaptureAlwaysGoesOn :
    (let s : State := { r0 with xcvRx := [0xF0] }
     s.xcvRx = 0xF0 :: [] ∧ ¬((0xF0 : Byte) = 0x00 ∧ s.fillPos .cap = 1) ∧ (s.faAppend .cap 0xF0).2 = .inProgress) ∧
    (let s : State := { r0.setCursors .cap { fillPos := 127, completeLen := 0 } with xcvRx := [0x41] }
     s.xcvRx = 0x41 :: [] ∧ ¬((0x41 : Byte) = 0x00 ∧ s.fillPos .cap = 1) ∧ (s.faAppend .cap 0x41).2 = .overflow) := by
  decide

/-- A free slot and a response of 128 bytes; a full response queue. -/
theorem witness_CommitConsumesTheRequest :
    (let s := com.setCompleteLen .cap 128
     s.rspW - s.rspR ≠ 4 ∧ (s.completeLen .cap).toNat ≤ 128) ∧
    (let s : State := { com with rspW := 4 }
     s.rspW - s.rspR = 4) := by decide

theorem witness_CursorBeyondCapacityStops :
    128 < ((reqd.setCompleteLen (.req 0) 129).completeLen (.req 0)).toNat ∧
    (let s := on { reqd with txi := 128 } { eng with clock := some 0x55 }
     s.move.clock = some 0x55 ∧ 128 ≤ s.txi.toNat) ∧
    (let s := com.setCompleteLen .cap 129
     128 < (s.completeLen .cap).toNat ∧ s.rspW - s.rspR ≠ 4) := by decide

theorem witness_TimeoutReleasesTheBusInTwoSteps :
    let s : State := { reqd with fsm := 0x5, arb := true, attnN := false, now := 1000000, tape := [eng, eng] }
    s.faWord = none ∧ s.fsm = 0x5 ∧ s.tape = eng :: eng :: [] ∧ eng.turn = .engine ∧ s.xcvRx = [] ∧ eng.xcvIn = [] := by
  decide

/-- Whatever the parameters, a poll right at T0 is before the deadline, and one TICK_HZ ticks later is at it. -/
theorem witness_deadline :
    ¬Config.params.tickHz ≤ (r0.now - r0.t0).toNat ∧
    (Config.params.tickHz < 2 ^ 64 →
      Config.params.tickHz ≤ (BitVec.ofNat 64 Config.params.tickHz - r0.t0 : Time).toNat) := by
  refine ⟨Nat.not_succ_le_zero _, fun h => ?_⟩
  show _ ≤ (BitVec.ofNat 64 Config.params.tickHz - 0#64).toNat
  rw [BitVec.sub_zero, BitVec.toNat_ofNat, Nat.mod_eq_of_lt h]

theorem witness_ErrBitsAreSticky : ∃ t, Instr.reqPublish ≠ .errClear ∧ exec .reqPublish reqd = .next t :=
  ⟨_, by decide, rfl⟩

theorem witness_RaisedFaultsAreRecorded :
    ∃ t, (Config.params.errLostUpdates = false ∨ reqd.errFresh = false) ∧ Instr.reqPublish ≠ .errClear ∧
      reqd.out.raised = 0 ∧ exec .reqPublish reqd = .next t :=
  ⟨_, .inr rfl, by decide, rfl, rfl⟩

/-- For FaultsComeFromTheirSteps, IndexCountersHaveOneWriter and RegistersHaveTheirWriters. -/
theorem witness_WritersAndFaults : ∃ t, exec .sCommit com = .next t := ⟨_, rfl⟩

theorem witness_EngineFollowsTheStateGraph :
    ∃ t, decodeFsm4 com.fsm = .ok .sCommit ∧ exec .sCommit com = .next t := ⟨_, rfl, rfl⟩

/-- ENGINE's turn, and HOST's, whose step S_SNOOP enables whatever SCHED is. -/
theorem witness_StepRunsTheDecodedOperation :
    (let s := on com eng
     s.faWord = none ∧ s.move.turn = .engine ∧ decode (.fsm4 s.fsm) = .ok .sCommit) ∧
    (let s := on r0 (Move.quiet (.host 0x12000000))
     s.faWord = none ∧ s.move.turn = .host 0x12000000 ∧ (Config.params.sched = .dual ∨ s.fsm = 0x0) ∧
       decode (.cmd32 0x12000000) = .ok .reqPublish) :=
  ⟨by decide, rfl, rfl, .inr rfl, by decide⟩

theorem witness_ReservedOpcodesReturnIllegal :
    let s := on r0 (Move.quiet (.host 0x33000000))
    0x33 ≤ (opOf 0x33000000).toNat ∧ s.faWord = none ∧ s.move.turn = .host 0x33000000 ∧
      (Config.params.sched = .dual ∨ s.fsm = 0x0) :=
  ⟨by decide, rfl, rfl, .inr rfl⟩

theorem witness_AgentsStepWhenEnabled :
    (let s := on { r0 with fsm := 0x8 } eng
     s.faWord = none ∧ s.move.turn = .engine ∧ 8 ≤ s.fsm.toNat) ∧
    (let s := on { r0 with fsm := 0x1 } (Move.quiet (.host 0))
     s.faWord = none ∧ s.move.turn = .host 0 ∧ s.fsm ≠ 0x0) ∧
    (let s := on r0 (Move.quiet (.timer 0))
     s.faWord = none ∧ s.move.turn = .timer 0) := by decide

/-- WRREG uses `sel` and `data`; `idx` differs. -/
theorem witness_UnusedFieldsAreIgnored :
    let op : Byte := 0x02
    ((op = 0x01 ∨ op = 0x02 ∨ op = 0x04 ∨ op = 0x20 ∨ op = 0x21) → (0x01 : Byte) = 0x01) ∧
      ((op = 0x01 ∨ op = 0x10 ∨ op = 0x20 ∨ op = 0x30) → (0x55 : Byte) = 0x00) ∧
      ((op = 0x02 ∨ op = 0x10 ∨ op = 0x11) → (0x03 : Byte) = 0x03) := by decide

/-- For StepKeepsStorageCanonical and StepKeepsTheBusWindows. -/
theorem witness_StepKeepsStorageAndWindows :
    ∃ t, com.mem.wf = true ∧ com.fsmLegal = true ∧ com.busWindows = true ∧ step (on com eng) = .next t :=
  ⟨_, by decide, by decide, by decide, rfl⟩

/-- S_TX with one byte sent, and a response of an earlier transaction waiting for HOST. -/
def midTx : State :=
  on { holding reqd (.rsp 0) [0xF0, 0x05, 0xF7] with rspW := 1, fsm := 0x4, arb := true, attnN := false, txi := 1 }
    { eng with clock := some 0x55 }

/-- The invariant holds in the middle of a transaction. -/
theorem witness_Inv : Inv midTx where
  mem := by decide
  faWord := by decide
  fsm := by decide
  bus := by decide
  reserved := by decide
  counts := by decide
  frames := by
    intro b hb
    rcases b with ⟨s, _ | _⟩ | s | s | _ <;> (try fin_cases s) <;>
      first
        | exact absurd hb (by decide)
        | exact ⟨fun _ => by decide, fun h => absurd rfl h⟩
        | exact ⟨fun h => absurd rfl h, fun h => absurd rfl h⟩
  requests := by decide
  responses := by decide
  pairs := by decide
  freePairs := by
    intro i c h hne
    cases c <;> fin_cases i <;> rfl
  working := by decide
  capture := by decide
  transaction := by decide
  validated := by decide
  sending := by decide

/-- For StepKeepsTheInvariant, InvariantStatesNeverStop and ReadableResponsesAreFrames. -/
theorem witness_InvariantStatements :
    Inv midTx ∧ midTx.rspW - midTx.rspR ≠ 0 ∧ ∃ t, step midTx = .next t :=
  ⟨witness_Inv, by decide, ⟨_, rfl⟩⟩

end Sys2Proof.Tests
end

section
/-! PROOFS. Which parameters R7 admits, what the agent that moves executes, and what the step answers to it
(00_scope.md R7, R11; 30_encoding.md R79; 44_host_port.md R190; 60_exceptions.md R238). -/

namespace Sys2Proof

/-! ## The constraints on the parameters (R7) -/

/-- The list of depths in `depthWf` is R7's condition: the powers of two up to 128. -/
theorem depthWf_iff (n : Nat) : depthWf n = true ↔ (∃ k, n = 2 ^ k) ∧ n ≤ 128 := by
  simp only [depthWf, Bool.or_eq_true, beq_iff_eq]
  constructor
  · rintro (((((((rfl | rfl) | rfl) | rfl) | rfl) | rfl) | rfl) | rfl)
    exacts [⟨⟨0, rfl⟩, by omega⟩, ⟨⟨1, rfl⟩, by omega⟩, ⟨⟨2, rfl⟩, by omega⟩, ⟨⟨3, rfl⟩, by omega⟩,
      ⟨⟨4, rfl⟩, by omega⟩, ⟨⟨5, rfl⟩, by omega⟩, ⟨⟨6, rfl⟩, by omega⟩, ⟨⟨7, rfl⟩, by omega⟩]
  · rintro ⟨⟨k, rfl⟩, hle⟩
    have hk : k ≤ 7 := (Nat.pow_le_pow_iff_right (by omega : 1 < 2)).mp hle
    interval_cases k <;> simp

theorem sizesWf_iff (nInt nReq nRsp ctrW : Nat) :
    sizesWf nInt nReq nRsp ctrW = true ↔
      (∀ n ∈ [nInt, nReq, nRsp], (∃ k, n = 2 ^ k) ∧ n ≤ 128) ∧ 2 ≤ nInt ∧
        2 * max nInt (max nReq nRsp) < 2 ^ ctrW := by
  simp only [sizesWf, Bool.and_eq_true, decide_eq_true_eq, depthWf_iff, List.forall_mem_cons,
    List.not_mem_nil, false_implies, implies_true, and_true, and_assoc]

/-- Arguments are refused as outside R7 exactly where the check of R7 fails; another firmware's sizes are
refused by another name. -/
theorem accept_eq_outsideConstraints_iff (a : Arguments) :
    a.accept = .error .outsideConstraints ↔ ¬ a.wf = true := by
  unfold Arguments.accept
  split
  · next hwf => split <;> simp [hwf]
  · next hwf => simp [hwf]

/-- The codes 0x8 to 0xF of FSM are the reserved ones (R79). -/
theorem decodeFsm4_reserved {c : BitVec 4} (hc : 8 ≤ c.toNat) : decodeFsm4 c = .error .reservedState := by
  unfold decodeFsm4
  split
  case h_9 => rfl
  all_goals omega

end Sys2Proof

namespace Sys2Proof.Machine

/-! ## What the agent that moves executes (R238) -/

theorem fetch_of_faWord_none {s : State} (hfa : s.faWord = none) : s.fetch = s.fetchTurn s.move.turn := by
  simp only [State.fetch, hfa]

theorem fetchTurn_engine_ok {s : State} {i : Instr} (hd : decodeFsm4 s.fsm = .ok i) :
    s.fetchTurn .engine = .run i := by
  simp only [State.fetchTurn, hd]

theorem fetchTurn_engine_error {s : State} {e : DecodeError} (hd : decodeFsm4 s.fsm = .error e) :
    s.fetchTurn .engine = .badState := by
  simp only [State.fetchTurn, hd]

theorem fetchTurn_host_ok {s : State} {w : Word} {i : Instr} (he : s.hostEnabled = true)
    (hd : decodeCmd32 w = .ok i) : s.fetchTurn (.host w) = .run i := by
  simp only [State.fetchTurn, he, if_true, hd]

theorem fetchTurn_host_error {s : State} {w : Word} {e : DecodeError} (he : s.hostEnabled = true)
    (hd : decodeCmd32 w = .error e) : s.fetchTurn (.host w) = .illegal := by
  simp only [State.fetchTurn, he, if_true, hd]

theorem fetchTurn_host_hold {s : State} {w : Word} (he : ¬ s.hostEnabled = true) :
    s.fetchTurn (.host w) = .hold :=
  if_neg he

/-- `fetch_run` the other way round: the enabled agent's operation is the one the step runs. -/
theorem fetch_eq_run {s : State} {i : Instr} (hfa : s.faWord = none)
    (h : s.move.turn = .engine ∧ decodeFsm4 s.fsm = .ok i ∨
      ∃ w, s.move.turn = .host w ∧ s.hostEnabled = true ∧ decodeCmd32 w = .ok i) :
    s.fetch = .run i := by
  rw [fetch_of_faWord_none hfa]
  obtain ⟨ht, hd⟩ | ⟨w, ht, he, hd⟩ := h
  · rw [ht, fetchTurn_engine_ok hd]
  · rw [ht, fetchTurn_host_ok he hd]

/-! ## What the step answers to what is fetched -/

theorem step_of_fetch_run {s : State} {i : Instr} (h : s.fetch = .run i) :
    step s = endOutcome State.endStep (exec i s.beginStep) := by
  simp only [step, h]

theorem step_of_fetch_illegal {s : State} (h : s.fetch = .illegal) :
    step s = .next (answer s.beginStep .illegal 0x00).endStep := by
  simp only [step, h]; rfl

theorem step_of_fetch_tick {s : State} {e : Nat} (h : s.fetch = .tick e) :
    step s = .next (s.beginStep.tick e).endStep := by
  simp only [step, h]

theorem step_of_fetch_hold {s : State} (h : s.fetch = .hold) : step s = .next s.beginStep.endStep := by
  simp only [step, h]

theorem step_of_fetch_badState {s : State} (h : s.fetch = .badState) : step s = .fault .badState := by
  simp only [step, h]

/-! ## Each agent's step -/

/-- In a reserved FSM code ENGINE has no step, and the model stops with BadState (R79). -/
theorem step_engine_reserved {s : State} (hfa : s.faWord = none) (ht : s.move.turn = .engine)
    (hc : 8 ≤ s.fsm.toNat) : step s = .fault .badState :=
  step_of_fetch_badState (by
    rw [fetch_of_faWord_none hfa, ht, fetchTurn_engine_error (decodeFsm4_reserved hc)])

/-- A HOST step that SCHED does not enable lets its turn pass (R190, R238). -/
theorem step_host_hold {s : State} {w : Word} (hfa : s.faWord = none) (ht : s.move.turn = .host w)
    (he : ¬ s.hostEnabled = true) : step s = .next s.beginStep.endStep :=
  step_of_fetch_hold (by rw [fetch_of_faWord_none hfa, ht, fetchTurn_host_hold he])

/-- An enabled HOST step answers ILLEGAL to a word that encodes no command (R74, R205). -/
theorem step_host_illegal {s : State} {w : Word} {e : DecodeError} (hfa : s.faWord = none)
    (ht : s.move.turn = .host w) (he : s.hostEnabled = true) (hd : decodeCmd32 w = .error e) :
    step s = .next (answer s.beginStep .illegal 0x00).endStep :=
  step_of_fetch_illegal (by rw [fetch_of_faWord_none hfa, ht, fetchTurn_host_error he hd])

/-- A TIMER step writes NOW and nothing else of the block (R31). -/
theorem step_timer {s : State} {e : Nat} (hfa : s.faWord = none) (ht : s.move.turn = .timer e) :
    step s = .next { s.beginStep.endStep with now := s.now + BitVec.ofNat 64 (e + 1) } :=
  step_of_fetch_tick (by rw [fetch_of_faWord_none hfa, ht]; rfl)

/-- Outside S_SNOOP a HOST step is enabled by DUAL alone (R190, R238). -/
theorem hostEnabled_iff_not_single {s : State} (hs : s.fsm ≠ 0x0) :
    s.hostEnabled = true ↔ Config.params.sched ≠ .single := by
  have hsnoop : s.fsm ≠ EngineState.snoop.code := hs
  rw [hostEnabled_iff]
  cases Config.params.sched <;> simp [hsnoop]

/-! ## The obligations -/

/-- Settles O48: the enabled agent's decoded operation is what the step fetches, and `step` runs it. -/
theorem stepRunsTheDecodedOperation : Obligations.StepRunsTheDecodedOperation := by
  unfold Obligations.StepRunsTheDecodedOperation
  intro s i hfa h
  refine step_of_fetch_run (fetch_eq_run hfa ?_)
  obtain ⟨ht, hd⟩ | ⟨w, ht, he, hd⟩ := h
  · exact .inl ⟨ht, hd⟩
  · exact .inr ⟨w, ht, (hostEnabled_iff s).mpr he.symm, hd⟩

/-- Settles O51: the constraints of R7 from `depthWf_iff`, and each agent's step by its own lemma. -/
theorem agentsStepWhenEnabled : Obligations.AgentsStepWhenEnabled := by
  unfold Obligations.AgentsStepWhenEnabled
  refine ⟨fun a => ?_, fun s hfa => ⟨step_engine_reserved hfa, fun w ht hs => ?_, fun e ht => step_timer hfa ht⟩⟩
  · rw [accept_eq_outsideConstraints_iff, Arguments.wf, Bool.and_eq_true, decide_eq_true_eq, sizesWf_iff]
    simp only [and_assoc]
  · by_cases hsched : Config.params.sched = .single
    · rw [if_pos hsched]
      exact step_host_hold hfa ht (fun he => (hostEnabled_iff_not_single hs).mp he hsched)
    · have he := (hostEnabled_iff_not_single hs).mpr hsched
      rw [if_neg hsched]
      split
      · next i hd => exact step_of_fetch_run (fetch_eq_run hfa (.inr ⟨w, ht, he, hd⟩))
      · next e hd => exact step_host_illegal hfa ht he hd

end Sys2Proof.Machine
end

section
/-! PROOFS. What an operation writes of the registers and counters, and what HOST can see of storage
(10_state.md R23, R27, R28, R31 to R33, R37, R39; 60_exceptions.md R231; 70_reset_and_hazards.md R261). -/

namespace Sys2Proof.Machine

/-! ## What a host command writes before it returns (44_host_port.md) -/

/-- The one effect that a host command's rule names, or none (R191 to R204). -/
inductive HostEffect (s : State) : Instr → State → Prop
  | nothing (i : Instr) : HostEffect s i s
  | writeCfg (sel data : Byte) : HostEffect s (.wrreg sel data) { s with cfg := cfgWritten data }
  | clearErr : HostEffect s .errClear { s with err := 0x00 }
  | writeByte (idx data : Byte) (hidx : idx.toNat ≤ 127) (hfree : s.qFull .req = false) :
      HostEffect s (.reqWrite idx data) (s.putByte s.reqTail idx.toNat data)
  | setLen (data : Byte) (hlen : data.toNat ≤ Config.capacity) (hfree : s.qFull .req = false) :
      HostEffect s (.reqSetlen data) (s.setCompleteLen s.reqTail data)
  | refusePublish : HostEffect s .reqPublish (s.raise .bpReq)
  | publish (hfree : s.qFull .req = false) : HostEffect s .reqPublish (s.qPublish .req)
  | releasePair (hsome : s.qEmpty .int = false) : HostEffect s .intRelease (s.qRelease .int)
  | releaseResponse (hsome : s.qEmpty .rsp = false) : HostEffect s .rspRelease (s.qRelease .rsp)

/-- The command's end: its result and the record of R62 (R76). -/
def State.answered (u : State) (fresh : Bool) (result : Option CmdResult) : State :=
  { u with errFresh := fresh, out := { u.out with result := result } }

theorem HostEffect.answer {s u t : State} {i : Instr} {st : Status} {d : Byte} (he : HostEffect s i u)
    (h : .next (u.hostReturn st d) = (.next t : Host.Outcome State Fault Refusal)) :
    ∃ u fresh result, HostEffect s i u ∧ t = u.answered fresh result :=
  ⟨u, _, _, he, (Host.Outcome.next.inj h).symm⟩

theorem readFrame_effect {s t : State} {b : BufName} {idx : Byte} (i : Instr)
    (h : s.readFrame b idx = .next t) : ∃ u fresh result, HostEffect s i u ∧ t = u.answered fresh result := by
  rw [readFrame_eq] at h
  split at h <;> exact (HostEffect.nothing i).answer h

/-- A host command has the effect its rule names and then returns. -/
theorem exec_host_effect {i : Instr} {s t : State} (hi : i.format = .cmd32) (h : exec i s = .next t) :
    ∃ u fresh result, HostEffect s i u ∧ t = u.answered fresh result := by
  cases i with
  | nop => exact (HostEffect.nothing _).answer h
  | rdreg sel idx =>
    simp only [exec, execRdreg] at h
    split at h
    · split at h <;> exact (HostEffect.nothing _).answer h
    · exact (HostEffect.nothing _).answer h
  | wrreg sel data =>
    simp only [exec, execWrreg] at h
    split at h
    · exact (HostEffect.writeCfg sel data).answer h
    all_goals exact (HostEffect.nothing _).answer h
  | errClear => exact ⟨_, true, _, .clearErr, (Host.Outcome.next.inj h).symm⟩
  | qcount sel =>
    simp only [exec, execQcount] at h
    split at h <;> exact (HostEffect.nothing _).answer h
  | reqWrite idx data =>
    simp only [exec, execReqWrite] at h
    split at h
    · next hidx =>
      split at h
      · exact (HostEffect.nothing _).answer h
      · next hfull => exact (HostEffect.writeByte idx data hidx (by simpa using hfull)).answer h
    · exact (HostEffect.nothing _).answer h
  | reqSetlen data =>
    simp only [exec, execReqSetlen] at h
    split at h
    · next hlen =>
      split at h
      · exact (HostEffect.nothing _).answer h
      · next hfull => exact (HostEffect.setLen data hlen (by simpa using hfull)).answer h
    · exact (HostEffect.nothing _).answer h
  | reqPublish =>
    simp only [exec, execReqPublish] at h
    split at h
    · exact HostEffect.refusePublish.answer h
    · next hfull => exact (HostEffect.publish (by simpa using hfull)).answer h
  | intRead sel idx =>
    simp only [exec, execIntRead] at h
    split at h
    · split at h
      · split at h
        · exact (HostEffect.nothing _).answer h
        · exact readFrame_effect _ h
      · exact (HostEffect.nothing _).answer h
    · exact (HostEffect.nothing _).answer h
  | intLen sel =>
    simp only [exec, execIntLen] at h
    split at h
    · split at h <;> exact (HostEffect.nothing _).answer h
    · exact (HostEffect.nothing _).answer h
  | intRelease =>
    simp only [exec, execIntRelease] at h
    split at h
    · exact (HostEffect.nothing _).answer h
    · next hempty => exact (HostEffect.releasePair (by simpa using hempty)).answer h
  | rspRead idx =>
    simp only [exec, execRspRead] at h
    split at h
    · split at h
      · exact (HostEffect.nothing _).answer h
      · exact readFrame_effect _ h
    · exact (HostEffect.nothing _).answer h
  | rspLen =>
    simp only [exec, execRspLen] at h
    split at h <;> exact (HostEffect.nothing _).answer h
  | rspRelease =>
    simp only [exec, execRspRelease] at h
    split at h
    · exact (HostEffect.nothing _).answer h
    · next hempty => exact (HostEffect.releaseResponse (by simpa using hempty)).answer h
  | sSnoop | sEval | sGuard | sValidate | sTx | sCap | sCommit | sAbort | faAppend _ | faClear => cases hi

/-! ## What the ENGINE steps with several ends write -/

/-- A push of the response queue moves RSP_W by one, or drops the copy and leaves it (R120). -/
theorem rspPush_rspW {s t : State} {src : BufName} (h : s.rspPush src = .ok t) :
    t.rspW = s.rspW ∨ t.rspW = s.rspW + 1 := by
  rcases rspPush_cases h with ⟨-, rfl⟩ | ⟨-, -, rfl⟩
  · exact .inl rfl
  · obtain ⟨m, hm⟩ := copyBytes_only s src s.rspTail (s.completeLen src).toNat
    rw [hm]
    exact .inr rfl

theorem mirrorOne_rspW {s t : State} {w : Fin Config.nInt} {c : Chan} (h : s.mirrorOne w c = .ok t) :
    t.rspW = s.rspW ∨ t.rspW = s.rspW + 1 := by
  rcases mirrorOne_cases h with rfl | ⟨-, hp⟩
  · exact .inl rfl
  · exact rspPush_rspW hp

/-- Mirroring a pair moves RSP_W by one for each frame that is copied (R133). -/
theorem mirror_rspW {s t : State} {w : Fin Config.nInt} (h : s.mirror w = .ok t) :
    t.rspW = s.rspW ∨ t.rspW = s.rspW + 1 ∨ t.rspW = s.rspW + 2 := by
  obtain ⟨c, c', u, -, hu, ht⟩ := mirror_cases h
  have two : s.rspW + 1 + 1 = s.rspW + 2 := by rw [BitVec.add_assoc]; rfl
  rcases mirrorOne_rspW hu with hu | hu <;> rcases mirrorOne_rspW ht with ht | ht <;> rw [ht, hu]
  · exact .inl rfl
  · exact .inr (.inl rfl)
  · exact .inr (.inl rfl)
  · exact .inr (.inr two)

/-- Publishing a pair changes storage, cursors, ERR and the record of raised faults; INT_W by one, RSP_W by
at most two. -/
theorem publishPair_only {s t : State} {w : Fin Config.nInt} (h : s.publishPair w = .ok t) :
    ∃ m c e r o, t = { s with mem := m, cursors := c, err := e, intW := s.intW + 1, rspW := r, out := o } ∧
      (r = s.rspW ∨ r = s.rspW + 1 ∨ r = s.rspW + 2) := by
  rcases publishPair_cases h with ⟨-, rfl⟩ | ⟨-, u, hu, rfl⟩
  · exact ⟨s.mem, s.cursors, s.err, s.rspW, s.out, rfl, .inl rfl⟩
  · have hr := mirror_rspW hu
    obtain ⟨m, c, e, r, o, rfl⟩ := mirror_only hu
    exact ⟨m, c, e, r, o, rfl, hr⟩

/-- What an S_SNOOP step writes (R130 to R135). -/
theorem execSSnoop_only {s t : State} (h : execSSnoop s = .next t) :
    ∃ m c e n r o, t = ({ s with mem := m, cursors := c, err := e, intW := n, rspW := r, out := o } : State).goto .eval ∧
      (n = s.intW ∨ n = s.intW + 1) ∧ (r = s.rspW ∨ r = s.rspW + 1 ∨ r = s.rspW + 2) := by
  obtain ⟨fed, hfed, hend⟩ := execSSnoop_cases h
  obtain ⟨m, c, e, o, honly⟩ := snoop_fed_only s s.workingSlot
  obtain rfl := hfed.trans honly
  obtain ⟨-, -, ⟨-, rfl⟩ | ⟨-, u, hu, rfl⟩⟩ | ⟨-, rfl⟩ := hend
  · exact ⟨_, _, _, _, _, _, rfl, .inl rfl, .inl rfl⟩
  · obtain ⟨m', c', e', r, o', rfl, hr⟩ := publishPair_only hu
    exact ⟨_, _, _, _, _, _, rfl, .inr rfl, hr⟩
  · exact ⟨_, _, _, _, _, _, rfl, .inl rfl, .inl rfl⟩

theorem capDeadline_only (s : State) :
    ∃ e f o, s.capDeadline = { s with err := e, fsm := f, errFresh := false, out := o } := by
  rcases capDeadline_cases s with ⟨-, h⟩ | ⟨-, h⟩ <;> rw [h] <;> exact ⟨_, _, _, rfl⟩

/-- What an S_CAP step writes (R155). -/
theorem execSCap_only {s t : State} (h : execSCap s = .next t) :
    ∃ m c e f x o,
      t = { s with mem := m, cursors := c, err := e, fsm := f, errFresh := false, xcvRx := x, out := o } := by
  rcases execSCap_cases h with ⟨-, rfl⟩ | ⟨x, rest, -, ⟨-, -, rfl⟩ | ⟨-, ⟨-, -, rfl⟩ | ⟨-, rfl⟩⟩⟩
  · obtain ⟨e, f, o, ht⟩ := capDeadline_only s
    exact ⟨s.mem, s.cursors, e, f, s.xcvRx, o, ht⟩
  · obtain ⟨e, f, o, ht⟩ := capDeadline_only (({ s with xcvRx := rest } : State).raise .glitch)
    exact ⟨s.mem, s.cursors, e, f, rest, o, ht⟩
  · obtain ⟨m, c, e, o, hfed⟩ := feed_only { s with xcvRx := rest } .cap x
    rw [hfed]
    exact ⟨m, c, e, _, rest, o, rfl⟩
  · obtain ⟨m, c, e, o, hfed⟩ := feed_only { s with xcvRx := rest } .cap x
    obtain ⟨e', f, o', ht⟩ := capDeadline_only (({ s with xcvRx := rest } : State).feed .cap x).1
    rw [ht, hfed]
    exact ⟨m, c, e', f, rest, o', rfl⟩

/-- What an S_COMMIT step writes (R156). -/
theorem execSCommit_only {s t : State} (h : execSCommit s = .next t) :
    ∃ m c e r o,
      t = ({ s with mem := m, cursors := c, err := e, arb := false, attnN := true, reqR := s.reqR + 1, rspW := r,
                    out := o } : State).goto .snoop ∧
      (r = s.rspW ∨ r = s.rspW + 1) := by
  obtain ⟨u, hu, rfl⟩ := execSCommit_cases h
  have hr := rspPush_rspW hu
  obtain ⟨m, c, e, r, o, rfl⟩ := rspPush_only hu
  exact ⟨m, _, e, r, o, rfl, hr⟩

/-- What FA_APPEND writes as an operation of the table (R80). -/
theorem execFaAppend_only {s t : State} {x : Byte} (h : execFaAppend x s = .next t) :
    ∃ m c o, t = { s with mem := m, cursors := c, out := o } := by
  obtain ⟨m, c, hfa⟩ := faAppend_only s s.faBuf x
  obtain rfl := Host.Outcome.next.inj h
  exact ⟨m, c, { s.out with fa := some (s.faAppend s.faBuf x).2 }, by rw [hfa]⟩

/-! ## The index counters and the registers (R27, R28, R31 to R33, R63) -/

/-- HOST writes INT_R, REQ_W and RSP_R, each in the one command that names it. -/
theorem HostEffect.indexCounters {i : Instr} {s u : State} (h : HostEffect s i u) :
    u.intW = s.intW ∧ (u.intR = s.intR ∨ i = .intRelease ∧ u.intR = s.intR + 1) ∧
      (u.reqW = s.reqW ∨ i = .reqPublish ∧ u.reqW = s.reqW + 1) ∧ u.reqR = s.reqR ∧ u.rspW = s.rspW ∧
      (u.rspR = s.rspR ∨ i = .rspRelease ∧ u.rspR = s.rspR + 1) := by
  cases h with
  | publish => exact ⟨rfl, .inl rfl, .inr ⟨rfl, rfl⟩, rfl, rfl, .inl rfl⟩
  | releasePair => exact ⟨rfl, .inr ⟨rfl, rfl⟩, .inl rfl, rfl, rfl, .inl rfl⟩
  | releaseResponse => exact ⟨rfl, .inl rfl, .inl rfl, rfl, rfl, .inr ⟨rfl, rfl⟩⟩
  | nothing | writeCfg | clearErr | writeByte | setLen | refusePublish =>
    exact ⟨rfl, .inl rfl, .inl rfl, rfl, rfl, .inl rfl⟩

/-- HOST writes CFG, in WRREG, and none of the registers that ENGINE and TIMER own (R63, R190). -/
theorem HostEffect.registers {i : Instr} {s u : State} (h : HostEffect s i u) :
    (u.cfg = s.cfg ∨ ∃ sel data, i = .wrreg sel data) ∧ u.arb = s.arb ∧ u.attnN = s.attnN ∧ u.txi = s.txi ∧
      u.t0 = s.t0 ∧ u.fsm = s.fsm ∧ u.now = s.now ∧ u.faWord = s.faWord := by
  cases h with
  | writeCfg sel data => exact ⟨.inr ⟨sel, data, rfl⟩, rfl, rfl, rfl, rfl, rfl, rfl, rfl⟩
  | nothing | clearErr | writeByte | setLen | refusePublish | publish | releasePair | releaseResponse =>
    exact ⟨.inl rfl, rfl, rfl, rfl, rfl, rfl, rfl, rfl⟩

/-- Settles O45: HOST's counters from `HostEffect.indexCounters`, ENGINE's step by step. -/
theorem indexCountersHaveOneWriter : Obligations.IndexCountersHaveOneWriter := by
  unfold Obligations.IndexCountersHaveOneWriter
  intro i s t h
  cases i with
  | sSnoop =>
    obtain ⟨m, c, e, n, r, o, rfl, hn, hr⟩ := execSSnoop_only h
    exact ⟨hn.imp_right (⟨rfl, ·⟩), .inl rfl, .inl rfl, .inl rfl, hr.imp_right fun hr => .inr ⟨rfl, hr⟩, .inl rfl⟩
  | sEval => rcases execSEval_cases h with ⟨-, rfl⟩ | ⟨-, rfl⟩ <;> simp
  | sGuard => rcases execSGuard_cases h with ⟨-, rfl⟩ | ⟨-, -, rfl⟩ | ⟨-, -, rfl⟩ <;> simp
  | sValidate =>
    obtain ⟨-, ⟨-, rfl⟩ | ⟨-, rfl⟩⟩ := execSValidate_cases h
    · simp
    · exact ⟨.inl rfl, .inl rfl, .inl rfl, .inr ⟨.inl rfl, rfl⟩, .inl rfl, .inl rfl⟩
  | sTx => rcases execSTx_cases h with ⟨-, rfl⟩ | ⟨-, -, -, ⟨-, rfl⟩ | ⟨-, rfl⟩⟩ <;> simp [faClear_eq]
  | sCap =>
    obtain ⟨m, c, e, f, x, o, rfl⟩ := execSCap_only h
    simp
  | sCommit =>
    obtain ⟨m, c, e, r, o, rfl, hr⟩ := execSCommit_only h
    exact ⟨.inl rfl, .inl rfl, .inl rfl, .inr ⟨.inr rfl, rfl⟩, hr.imp_right fun hr => .inl ⟨rfl, hr⟩, .inl rfl⟩
  | sAbort =>
    obtain rfl := execSAbort_next h
    simp [faClear_eq]
  | faAppend x =>
    obtain ⟨m, c, o, rfl⟩ := execFaAppend_only h
    simp
  | faClear =>
    obtain rfl : s.faClear s.faBuf = t := Host.Outcome.next.inj h
    simp [faClear_eq]
  | _ =>
    obtain ⟨u, fresh, result, he, rfl⟩ := exec_host_effect rfl h
    obtain ⟨hintW, hintR, hreqW, hreqR, hrspW, hrspR⟩ := he.indexCounters
    exact ⟨.inl hintW, hintR, hreqW, .inl hreqR, .inl hrspW, hrspR⟩

/-- Settles O46: HOST's registers from `HostEffect.registers`, ENGINE's step by step. -/
theorem registersHaveTheirWriters : Obligations.RegistersHaveTheirWriters := by
  unfold Obligations.RegistersHaveTheirWriters
  intro i s t h
  cases i with
  | sSnoop =>
    obtain ⟨m, c, e, n, r, o, rfl, -, -⟩ := execSSnoop_only h
    simp [Instr.format]
  | sEval => rcases execSEval_cases h with ⟨-, rfl⟩ | ⟨-, rfl⟩ <;> simp [Instr.format]
  | sGuard => rcases execSGuard_cases h with ⟨-, rfl⟩ | ⟨-, -, rfl⟩ | ⟨-, -, rfl⟩ <;> simp [Instr.format]
  | sValidate =>
    obtain ⟨-, ⟨-, rfl⟩ | ⟨-, rfl⟩⟩ := execSValidate_cases h
    · simp [Instr.format]
    · exact ⟨.inl rfl, .inr (.inr ⟨.inr (.inl rfl), rfl⟩), .inl rfl, .inl rfl, .inl rfl, .inr rfl, rfl⟩
  | sTx =>
    rcases execSTx_cases h with ⟨-, rfl⟩ | ⟨-, -, -, ⟨-, rfl⟩ | ⟨-, rfl⟩⟩ <;> simp [Instr.format, faClear_eq]
  | sCap =>
    obtain ⟨m, c, e, f, x, o, rfl⟩ := execSCap_only h
    simp [Instr.format]
  | sCommit =>
    obtain ⟨m, c, e, r, o, rfl, -⟩ := execSCommit_only h
    simp [Instr.format]
  | sAbort =>
    obtain rfl := execSAbort_next h
    simp [Instr.format, faClear_eq]
  | faAppend x =>
    obtain ⟨m, c, o, rfl⟩ := execFaAppend_only h
    simp
  | faClear =>
    obtain rfl : s.faClear s.faBuf = t := Host.Outcome.next.inj h
    simp [faClear_eq]
  | _ =>
    obtain ⟨u, fresh, result, he, rfl⟩ := exec_host_effect rfl h
    obtain ⟨hcfg, harb, hattn, htxi, ht0, hfsm, hnow, -⟩ := he.registers
    exact ⟨hcfg, .inl harb, .inl hattn, .inl htxi, .inl ht0, .inl hfsm, hnow⟩

/-! ## ERR (R23, R231) -/

/-- Every bit of ERR that is set stays set, and bit 7 is as before. -/
def ErrKept (s t : State) : Prop := s.err &&& t.err = s.err ∧ t.err.getLsbD 7 = s.err.getLsbD 7

theorem ErrKept.of_eq {s t : State} (h : t.err = s.err) : ErrKept s t := by
  simp [ErrKept, h]

theorem ErrKept.trans {s t u : State} (hst : ErrKept s t) (htu : ErrKept t u) : ErrKept s u := by
  obtain ⟨hst, hst7⟩ := hst
  obtain ⟨htu, htu7⟩ := htu
  refine ⟨?_, htu7.trans hst7⟩
  calc s.err &&& u.err = s.err &&& t.err &&& u.err := by rw [hst]
    _ = s.err &&& (t.err &&& u.err) := BitVec.and_assoc ..
    _ = s.err := by rw [htu, hst]

theorem mask_bit_seven (k : FaultKind) : k.mask.getLsbD 7 = false := by cases k <;> decide

/-- Raising a fault sets a bit below bit 7, or none if the update is lost (R62, R231). -/
theorem errKept_raise (s : State) (k : FaultKind) : ErrKept s (s.raise k) := by
  by_cases hlost : s.updateLost k = true
  · exact .of_eq (by simp [State.raise, hlost])
  · have herr : (s.raise k).err = s.err ||| k.mask := by simp [State.raise, hlost]
    refine ⟨?_, ?_⟩
    · rw [herr]
      ext j hj
      simpa using Or.inl
    · rw [herr, BitVec.getLsbD_or, mask_bit_seven, Bool.or_false]

theorem errKept_faAppend (s : State) (b : BufName) (x : Byte) : ErrKept s (s.faAppend b x).1 := by
  obtain ⟨m, c, h⟩ := faAppend_only s b x
  exact .of_eq (by rw [h])

theorem errKept_feed (s : State) (b : BufName) (x : Byte) : ErrKept s (s.feed b x).1 := by
  rw [feed_eq]
  split
  · exact (errKept_faAppend s b x).trans (errKept_raise _ _)
  · exact errKept_faAppend s b x

theorem errKept_feedOpt (s : State) (b : BufName) (offer : Option Byte) : ErrKept s (s.feedOpt b offer).1 := by
  cases offer with
  | none => exact .of_eq rfl
  | some x => exact errKept_feed s b x

theorem errKept_rspPush {s t : State} {src : BufName} (h : s.rspPush src = .ok t) : ErrKept s t := by
  rcases rspPush_cases h with ⟨-, rfl⟩ | ⟨-, -, rfl⟩
  · exact errKept_raise s _
  · obtain ⟨m, hm⟩ := copyBytes_only s src s.rspTail (s.completeLen src).toNat
    exact .of_eq (by simp [hm])

theorem errKept_mirrorOne {s t : State} {w : Fin Config.nInt} {c : Chan} (h : s.mirrorOne w c = .ok t) :
    ErrKept s t := by
  rcases mirrorOne_cases h with rfl | ⟨-, hp⟩
  · exact .of_eq rfl
  · exact errKept_rspPush hp

theorem errKept_publishPair {s t : State} {w : Fin Config.nInt} (h : s.publishPair w = .ok t) : ErrKept s t := by
  rcases publishPair_cases h with ⟨-, rfl⟩ | ⟨-, u, hu, rfl⟩
  · exact .of_eq rfl
  · obtain ⟨_, _, v, -, hv, hu⟩ := mirror_cases hu
    exact ((errKept_mirrorOne hv).trans (errKept_mirrorOne hu)).trans (.of_eq rfl)

theorem errKept_execSSnoop {s t : State} (h : execSSnoop s = .next t) : ErrKept s t := by
  obtain ⟨fed, hfeed, hend⟩ := execSSnoop_cases h
  have hfed : ErrKept s fed := hfeed ▸ (errKept_feedOpt s _ _).trans (errKept_feedOpt _ _ _)
  refine hfed.trans ?_
  obtain ⟨-, -, ⟨-, rfl⟩ | ⟨-, u, hu, rfl⟩⟩ | ⟨-, rfl⟩ := hend
  · exact (errKept_raise _ .bpInt).trans (.of_eq rfl)
  · exact (errKept_publishPair hu).trans (.of_eq rfl)
  · exact .of_eq rfl

theorem errKept_capDeadline (s : State) : ErrKept s s.capDeadline := by
  rcases capDeadline_cases s with ⟨-, h⟩ | ⟨-, h⟩ <;> rw [h]
  · exact (errKept_raise s .timeout).trans (.of_eq rfl)
  · exact .of_eq rfl

theorem errKept_execSCap {s t : State} (h : execSCap s = .next t) : ErrKept s t := by
  rcases execSCap_cases h with ⟨-, rfl⟩ | ⟨x, rest, -, hend⟩
  · exact errKept_capDeadline s
  · have hpoll : ErrKept s { s with xcvRx := rest } := .of_eq rfl
    obtain ⟨-, -, rfl⟩ | ⟨-, ⟨-, -, rfl⟩ | ⟨-, rfl⟩⟩ := hend
    · exact hpoll.trans ((errKept_raise _ _).trans (errKept_capDeadline _))
    · exact hpoll.trans ((errKept_feed _ _ _).trans (.of_eq rfl))
    · exact hpoll.trans ((errKept_feed _ _ _).trans (errKept_capDeadline _))

/-- A host command other than ERR_CLEAR keeps ERR, but for the BP_REQ that a refused REQ_PUBLISH raises. -/
theorem HostEffect.errKept {i : Instr} {s u : State} (h : HostEffect s i u) (hi : i ≠ .errClear) :
    ErrKept s u := by
  cases h with
  | clearErr => exact absurd rfl hi
  | refusePublish => exact errKept_raise s .bpReq
  | nothing | writeCfg | writeByte | setLen | publish | releasePair | releaseResponse => exact .of_eq rfl

/-- Settles O42: ERR changes only by `State.raise`, which keeps every bit and sets no bit 7. -/
theorem errBitsAreSticky : Obligations.ErrBitsAreSticky := by
  unfold Obligations.ErrBitsAreSticky
  intro i s t hi h
  show ErrKept s t
  cases i with
  | sSnoop => exact errKept_execSSnoop h
  | sEval => rcases execSEval_cases h with ⟨-, rfl⟩ | ⟨-, rfl⟩ <;> exact .of_eq rfl
  | sGuard => rcases execSGuard_cases h with ⟨-, rfl⟩ | ⟨-, -, rfl⟩ | ⟨-, -, rfl⟩ <;> exact .of_eq rfl
  | sValidate =>
    obtain ⟨-, ⟨-, rfl⟩ | ⟨-, rfl⟩⟩ := execSValidate_cases h
    · exact .of_eq rfl
    · exact (errKept_raise s .framing).trans (.of_eq rfl)
  | sTx => rcases execSTx_cases h with ⟨-, rfl⟩ | ⟨-, -, -, ⟨-, rfl⟩ | ⟨-, rfl⟩⟩ <;> exact .of_eq rfl
  | sCap => exact errKept_execSCap h
  | sCommit =>
    obtain ⟨u, hu, rfl⟩ := execSCommit_cases h
    have hlines : ErrKept s { s with arb := false, attnN := true } := .of_eq rfl
    exact (hlines.trans (errKept_rspPush hu)).trans (.of_eq rfl)
  | sAbort =>
    obtain rfl := execSAbort_next h
    exact .of_eq rfl
  | faAppend x =>
    obtain ⟨m, c, o, rfl⟩ := execFaAppend_only h
    exact .of_eq rfl
  | faClear =>
    obtain rfl : s.faClear s.faBuf = t := Host.Outcome.next.inj h
    exact .of_eq rfl
  | _ =>
    obtain ⟨u, fresh, result, he, rfl⟩ := exec_host_effect rfl h
    exact (he.errKept hi).trans (.of_eq rfl)

/-! ## What HOST can see of storage (R37, R261) -/

/-- If both outcomes are states, they show the same result and agree but for storage. -/
def SameButStorage (o o' : Host.Outcome State Fault Refusal) : Prop :=
  ∀ t u, o = .next t → o' = .next u → u.out.result = t.out.result ∧ u = { t with mem := u.mem }

theorem sameButStorage_next {t u : State} (h : u = { t with mem := u.mem }) :
    SameButStorage (.next t) (.next u) := by
  rintro _ _ ⟨rfl⟩ ⟨rfl⟩
  exact ⟨by rw [h], h⟩

theorem SameButStorage.ite {c : Prop} [Decidable c] {o₁ o₁' o₂ o₂' : Host.Outcome State Fault Refusal}
    (h₁ : SameButStorage o₁ o₁') (h₂ : SameButStorage o₂ o₂') :
    SameButStorage (if c then o₁ else o₂) (if c then o₁' else o₂') := by
  split
  · exact h₁
  · exact h₂

/-- A read answers a byte below `complete_len`, or RANGE without one (R199, R202). -/
theorem sameButStorage_readFrame {s : State} {m : Memory} (b : BufName) (idx : Byte)
    (h : ∀ j, j < (s.completeLen b).toNat → ({ s with mem := m } : State).byteAt b j = s.byteAt b j) :
    SameButStorage (s.readFrame b idx) (({ s with mem := m } : State).readFrame b idx) := by
  have hlen : ({ s with mem := m } : State).completeLen b = s.completeLen b := rfl
  rw [readFrame_eq, readFrame_eq, hlen]
  split
  · next hj => rw [h _ hj]; exact sameButStorage_next rfl
  · exact sameButStorage_next rfl

/-- Settles O15: every test of a command reads cursors, counters and registers, and the one byte it answers
is below its frame's length. -/
theorem hostCannotObserveStaleBytes : Obligations.HostCannotObserveStaleBytes := by
  unfold Obligations.HostCannotObserveStaleBytes
  intro i s m hi hbytes
  show SameButStorage (exec i s) (exec i { s with mem := m })
  cases i with
  | nop | errClear => exact sameButStorage_next rfl
  | rdreg sel idx =>
    simp only [exec, execRdreg]
    cases regOfSel sel with
    | none => exact sameButStorage_next rfl
    | some r => cases r <;> exact .ite (sameButStorage_next rfl) (sameButStorage_next rfl)
  | wrreg sel data =>
    simp only [exec, execWrreg]
    cases regOfSel sel with
    | none => exact sameButStorage_next rfl
    | some r => cases r <;> exact sameButStorage_next rfl
  | qcount sel =>
    simp only [exec, execQcount]
    cases queueOfSel sel with
    | none => exact sameButStorage_next rfl
    | some q => cases q <;> exact sameButStorage_next rfl
  | reqWrite idx data =>
    exact .ite (.ite (sameButStorage_next rfl) (sameButStorage_next rfl)) (sameButStorage_next rfl)
  | reqSetlen data =>
    exact .ite (.ite (sameButStorage_next rfl) (sameButStorage_next rfl)) (sameButStorage_next rfl)
  | reqPublish => exact .ite (sameButStorage_next rfl) (sameButStorage_next rfl)
  | intRead sel idx =>
    simp only [exec, execIntRead]
    cases chanOfSel sel with
    | none => exact sameButStorage_next rfl
    | some c =>
      exact .ite (.ite (sameButStorage_next rfl) (sameButStorage_readFrame _ idx (hbytes _)))
        (sameButStorage_next rfl)
  | intLen sel =>
    simp only [exec, execIntLen]
    cases chanOfSel sel with
    | none => exact sameButStorage_next rfl
    | some c => exact .ite (sameButStorage_next rfl) (sameButStorage_next rfl)
  | intRelease => exact .ite (sameButStorage_next rfl) (sameButStorage_next rfl)
  | rspRead idx =>
    exact .ite (.ite (sameButStorage_next rfl) (sameButStorage_readFrame _ idx (hbytes _)))
      (sameButStorage_next rfl)
  | rspLen => exact .ite (sameButStorage_next rfl) (sameButStorage_next rfl)
  | rspRelease => exact .ite (sameButStorage_next rfl) (sameButStorage_next rfl)
  | sSnoop | sEval | sGuard | sValidate | sTx | sCap | sCommit | sAbort | faAppend _ | faClear => cases hi

/-! ## Reset (R39) -/

theorem reset_cursorsOf (b : BufName) : State.reset.cursorsOf b = Cursors.idle :=
  Vector.getElem_replicate _

/-- Settles O52. -/
theorem resetLeavesTheStatedValues : Obligations.ResetLeavesTheStatedValues := by
  unfold Obligations.ResetLeavesTheStatedValues
  refine ⟨fun b => ⟨?_, ?_, fun j => rfl⟩, rfl, rfl, rfl, rfl, rfl, rfl, rfl, rfl, rfl, rfl, rfl, rfl, rfl, rfl⟩
  · rw [State.fillPos, reset_cursorsOf]; rfl
  · rw [State.completeLen, reset_cursorsOf]; rfl

end Sys2Proof.Machine
end

section
/-! PROOFS. The buffers under the invariant: which buffer an operation leaves as it is, and that every
operation keeps storage canonical and every buffer's frame (10_state.md R21, R22; 40_frame_assembler.md R94;
41_spsc_queue.md R116, R120). -/

namespace Sys2Proof.Machine

/-! ## A buffer that is as before -/

theorem idle_iff (s : State) (b : BufName) : s.idle b = true ↔ s.fillPos b = 0 ∧ s.completeLen b = 0 := by
  simp [State.idle]

theorem SameBuffer.refl (s : State) (b : BufName) : SameBuffer s s b := ⟨rfl, fun _ _ => rfl⟩

theorem SameBuffer.trans {s t u : State} {b : BufName} (hst : SameBuffer s t b) (htu : SameBuffer t u b) :
    SameBuffer s u b :=
  ⟨htu.1.trans hst.1, fun j hj => (htu.2 j hj).trans (hst.2 j hj)⟩

/-- A state with the same storage and cursors has the same buffers. -/
theorem SameBuffer.of_eq {s t : State} (hmem : t.mem = s.mem) (hcur : t.cursors = s.cursors) (b : BufName) :
    SameBuffer s t b :=
  ⟨by rw [State.cursorsOf, hcur]; rfl, fun j _ => by rw [State.byteAt, hmem]; rfl⟩

theorem SameBuffer.cursorsOf {s t : State} {b : BufName} (h : SameBuffer s t b) :
    t.cursorsOf b = s.cursorsOf b := h.1

theorem SameBuffer.byteAt {s t : State} {b : BufName} (h : SameBuffer s t b) {j : Nat}
    (hj : j < Config.capacity) : t.byteAt b j = s.byteAt b j := h.2 j hj

theorem SameBuffer.fillPos {s t : State} {b : BufName} (h : SameBuffer s t b) : t.fillPos b = s.fillPos b := by
  rw [State.fillPos, h.cursorsOf]; rfl

theorem SameBuffer.completeLen {s t : State} {b : BufName} (h : SameBuffer s t b) :
    t.completeLen b = s.completeLen b := by
  rw [State.completeLen, h.cursorsOf]; rfl

theorem SameBuffer.idle {s t : State} {b : BufName} (h : SameBuffer s t b) : t.idle b = s.idle b := by
  rw [State.idle, h.fillPos, h.completeLen]; rfl

theorem sameBuffer_putByte (s : State) {b b' : BufName} {i : Nat} (v : Byte) (hi : i < Config.capacity)
    (hne : b' ≠ b) : SameBuffer s (s.putByte b i v) b' :=
  ⟨rfl, fun _ hj => byteAt_putByte_of_ne s v hi hj fun ⟨e, _⟩ => hne e⟩

theorem sameBuffer_setCursors (s : State) {b b' : BufName} (c : Cursors) (hne : b' ≠ b) :
    SameBuffer s (s.setCursors b c) b' :=
  ⟨cursorsOf_setCursors_of_ne s c hne, fun _ _ => rfl⟩

theorem sameBuffer_faClear (s : State) {b b' : BufName} (hne : b' ≠ b) : SameBuffer s (s.faClear b) b' :=
  sameBuffer_setCursors s _ hne

theorem sameBuffer_bumpWrite (s : State) (q : Queue) (b : BufName) : SameBuffer s (s.bumpWrite q) b :=
  .of_eq (by simp) (by simp) b

theorem sameBuffer_bumpRead (s : State) (q : Queue) (b : BufName) : SameBuffer s (s.bumpRead q) b :=
  .of_eq (by simp) (by simp) b

theorem sameBuffer_faAppend (s : State) {b b' : BufName} (x : Byte) (hne : b' ≠ b) :
    SameBuffer s (s.faAppend b x).1 b' :=
  ⟨faAppend_cursorsOf_other s x hne, fun j hj => faAppend_byteAt_other s x j hj hne⟩

/-- Feeding writes the buffer that it feeds as FA_APPEND does (R95). -/
theorem sameBuffer_faAppend_feed (s : State) (b b' : BufName) (x : Byte) :
    SameBuffer (s.faAppend b x).1 (s.feed b x).1 b' :=
  ⟨feed_cursorsOf s b b' x, fun j _ => feed_byteAt s b b' x j⟩

theorem sameBuffer_feed (s : State) {b b' : BufName} (x : Byte) (hne : b' ≠ b) :
    SameBuffer s (s.feed b x).1 b' :=
  (sameBuffer_faAppend s x hne).trans (sameBuffer_faAppend_feed s b b' x)

theorem sameBuffer_feedOpt (s : State) {b b' : BufName} (offer : Option Byte) (hne : b' ≠ b) :
    SameBuffer s (s.feedOpt b offer).1 b' := by
  cases offer with
  | none => exact .refl s b'
  | some x => exact sameBuffer_feed s x hne

/-- A push writes no buffer but the response queue's write slot (R120). -/
theorem sameBuffer_rspPush {s t : State} {src b : BufName} (h : s.rspPush src = .ok t) (hsrc : src ≠ s.rspTail)
    (hb : b ≠ s.rspTail) : SameBuffer s t b := by
  rcases rspPush_cases h with ⟨-, rfl⟩ | ⟨-, hlen, rfl⟩
  · exact .of_eq rfl rfl b
  · refine ⟨?_, fun j hj => ?_⟩
    · obtain ⟨m, hm⟩ := copyBytes_only s src s.rspTail (s.completeLen src).toNat
      rw [bumpWrite_cursorsOf, cursorsOf_setCursors_of_ne _ _ hb, hm]
      rfl
    · rw [bumpWrite_byteAt, setCursors_byteAt, copyBytes_byteAt s hsrc _ hlen b j hj,
        if_neg fun ⟨e, _⟩ => hb e]

/-! ## When FA_APPEND completes a frame -/

/-- A buffer without a frame holds one after FA_APPEND exactly on the outcome Complete (R92). -/
theorem faAppend_completeLen_ne_zero_iff (s : State) (b : BufName) (x : Byte) (h : s.completeLen b = 0) :
    (s.faAppend b x).1.completeLen b ≠ 0 ↔ ∃ n, (s.faAppend b x).2 = .complete n := by
  rcases faAppend_cases s b x with ⟨hc, e⟩ | ⟨-, -, e⟩ | ⟨-, -, -, e⟩ | ⟨-, -, -, e⟩ | ⟨-, -, -, -, e⟩ |
    ⟨-, -, -, -, -, e⟩
  case inl => exact absurd h hc
  case inr.inr.inr.inl =>
    have hpos : (s.fillPos b).setWidth 8 + 1 ≠ 0 := by
      have := (s.fillPos b).isLt
      bv_omega
    rw [e]
    simpa using hpos
  all_goals
    rw [e]
    simp [h]

theorem feed_completeLen_ne_zero_iff (s : State) (b : BufName) (x : Byte) (h : s.completeLen b = 0) :
    (s.feed b x).1.completeLen b ≠ 0 ↔ ∃ n, (s.feed b x).2 = .complete n := by
  rw [(sameBuffer_faAppend_feed s b b x).completeLen, feed_outcome]
  exact faAppend_completeLen_ne_zero_iff s b x h

theorem feedOpt_completeLen_ne_zero_iff (s : State) (b : BufName) (offer : Option Byte)
    (h : s.completeLen b = 0) :
    (s.feedOpt b offer).1.completeLen b ≠ 0 ↔ ∃ n, (s.feedOpt b offer).2 = some (.complete n) := by
  cases offer with
  | none => simp [h]
  | some x => simpa using feed_completeLen_ne_zero_iff s b x h

/-! ## The buffers' own invariant -/

/-- What the invariant says of one buffer: a frame's shape, or a request's bounds (R22, R94). -/
structure BufferOk (s : State) (b : BufName) : Prop where
  frame : b.isReq = false → FrameOk s b
  request : b.isReq = true → s.fillPos b = 0 ∧ (s.completeLen b).toNat ≤ Config.capacity

/-- Storage is canonical and every buffer is as the invariant has it. -/
structure BuffersOk (s : State) : Prop where
  mem : s.mem.wf = true
  each : ∀ b, BufferOk s b

theorem frameOk_of_sameBuffer {s t : State} {b : BufName} (hsame : SameBuffer s t b) (h : FrameOk s b) :
    FrameOk t b := by
  obtain ⟨hcomplete, hfilling⟩ := h
  have h0 : t.byteAt b 0 = s.byteAt b 0 := hsame.byteAt (by decide)
  refine ⟨fun hc => ?_, fun hf => ?_⟩
  · rw [hsame.completeLen] at hc
    obtain ⟨htwo, hcap, hpos, hsof, heof⟩ := hcomplete hc
    rw [hsame.completeLen, hsame.fillPos, h0, hsame.byteAt (by omega)]
    exact ⟨htwo, hcap, hpos, hsof, heof⟩
  · rw [hsame.fillPos] at hf
    rw [hsame.completeLen, h0]
    exact hfilling hf

theorem BufferOk.of_sameBuffer {s t : State} {b : BufName} (hsame : SameBuffer s t b) (h : BufferOk s b) :
    BufferOk t b :=
  ⟨fun hb => frameOk_of_sameBuffer hsame (h.frame hb), fun hb => by
    rw [hsame.fillPos, hsame.completeLen]; exact h.request hb⟩

theorem bufferOk_of_idle {s : State} {b : BufName} (h : s.idle b = true) : BufferOk s b := by
  obtain ⟨hfill, hlen⟩ := (idle_iff s b).1 h
  exact ⟨fun _ => ⟨fun hc => absurd hlen hc, fun hf => absurd hfill hf⟩, fun _ => ⟨hfill, by simp [hlen]⟩⟩

/-- An operation that writes one buffer has that buffer to account for. -/
theorem BuffersOk.update {s t : State} (h : BuffersOk s) (b : BufName) (hmem : t.mem.wf = true)
    (hother : ∀ b', b' ≠ b → SameBuffer s t b') (hb : BufferOk t b) : BuffersOk t := by
  refine ⟨hmem, fun b' => ?_⟩
  by_cases hbb : b' = b
  · exact hbb ▸ hb
  · exact (h.each b').of_sameBuffer (hother b' hbb)

theorem BuffersOk.of_eq {s t : State} (h : BuffersOk s) (hmem : t.mem = s.mem) (hcur : t.cursors = s.cursors) :
    BuffersOk t :=
  ⟨hmem ▸ h.mem, fun b => (h.each b).of_sameBuffer (.of_eq hmem hcur b)⟩

theorem BuffersOk.faClear {s : State} (h : BuffersOk s) (b : BufName) : BuffersOk (s.faClear b) :=
  h.update b h.mem (fun _ hne => sameBuffer_faClear s hne) (bufferOk_of_idle (by simp [idle_iff]))

theorem BuffersOk.qRelease {s : State} (h : BuffersOk s) (q : Queue) : BuffersOk (s.qRelease q) := by
  have hclear : BuffersOk (s.clearHead q) := by
    cases q with
    | int => exact (h.faClear _).faClear _
    | req => exact h.faClear _
    | rsp => exact h.faClear _
  exact hclear.of_eq (by simp [qRelease_eq]) (by simp [qRelease_eq])

/-- HOST's bytes of a request are under no invariant (R22). -/
theorem BuffersOk.putByte_req {s : State} (h : BuffersOk s) (k : Fin Config.nReq) {i : Nat} (v : Byte)
    (hi : i < Config.capacity) : BuffersOk (s.putByte (.req k) i v) :=
  h.update (.req k) (putByte_wf _ v hi h.mem) (fun _ hne => sameBuffer_putByte s v hi hne)
    ⟨fun hb => (by cases hb), fun hb => (h.each (.req k)).request hb⟩

theorem BuffersOk.setCompleteLen_req {s : State} (h : BuffersOk s) (k : Fin Config.nReq) {n : Byte}
    (hn : n.toNat ≤ Config.capacity) : BuffersOk (s.setCompleteLen (.req k) n) :=
  h.update (.req k) h.mem (fun _ hne => sameBuffer_setCursors s _ hne)
    ⟨fun hb => (by cases hb), fun hb => by
      rw [setCompleteLen_fillPos, setCompleteLen_completeLen, if_pos rfl]
      exact ⟨((h.each (.req k)).request hb).1, hn⟩⟩

/-- FA_APPEND keeps R94's invariant of its buffer, row by row of R92. -/
theorem frameOk_faAppend {s : State} {b : BufName} (x : Byte) (h : FrameOk s b) :
    FrameOk (s.faAppend b x).1 b := by
  have hlt := fillPos_lt s b
  have hzero : (0 : Nat) < Config.capacity := by decide
  obtain ⟨-, hfilling⟩ := id h
  have hsof (hf : s.fillPos b ≠ 0) (v : Byte) : (s.putByte b (s.fillPos b).toNat v).byteAt b 0 = Config.sof := by
    have hpos : 0 ≠ (s.fillPos b).toNat := fun e => hf (BitVec.eq_of_toNat_eq e.symm)
    rw [byteAt_putByte_of_ne s v hlt hzero fun ⟨_, e⟩ => hpos e]
    exact (hfilling hf).2
  rcases faAppend_cases s b x with ⟨-, e⟩ | ⟨hc, -, e⟩ | ⟨-, -, -, e⟩ | ⟨hc, hf, -, e⟩ | ⟨hc, -, -, -, e⟩ |
    ⟨hc, hf, -, -, -, e⟩ <;> rw [e]
  case inl | inr.inr.inl => exact h
  case inr.inl =>
    exact ⟨fun hne => absurd (by simpa using hc) hne, fun _ => ⟨by simpa using hc, by simp⟩⟩
  case inr.inr.inr.inl =>
    have hlen : ((s.fillPos b).setWidth 8 + 1 : Byte).toNat = (s.fillPos b).toNat + 1 := by bv_omega
    have hpos : (s.fillPos b).toNat ≠ 0 := fun e => hf (BitVec.eq_of_toNat_eq e)
    refine ⟨fun _ => ?_, fun hne => absurd (by simp) hne⟩
    simp only [setFillPos_completeLen, setCompleteLen_completeLen, if_true, setFillPos_fillPos,
      setFillPos_byteAt, setCompleteLen_byteAt, hlen, Nat.add_sub_cancel, byteAt_putByte_same]
    exact ⟨by omega, by omega, trivial, hsof hf _, trivial⟩
  case inr.inr.inr.inr.inl =>
    exact ⟨fun hne => absurd (by simpa using hc) hne, fun hne => absurd (by simp) hne⟩
  case inr.inr.inr.inr.inr =>
    exact ⟨fun hne => absurd (by simpa using hc) hne, fun _ => ⟨by simpa using hc, hsof hf x⟩⟩

theorem BuffersOk.feed {s : State} (h : BuffersOk s) {b : BufName} (hb : b.isReq = false) (x : Byte) :
    BuffersOk (s.feed b x).1 := by
  refine h.update b (feed_wf s b x h.mem) (fun _ hne => sameBuffer_feed s x hne) ⟨fun _ => ?_, fun hreq => ?_⟩
  · exact frameOk_of_sameBuffer (sameBuffer_faAppend_feed s b b x) (frameOk_faAppend x ((h.each b).frame hb))
  · rw [hb] at hreq; cases hreq

theorem BuffersOk.feedOpt {s : State} (h : BuffersOk s) {b : BufName} (hb : b.isReq = false)
    (offer : Option Byte) : BuffersOk (s.feedOpt b offer).1 := by
  cases offer with
  | none => exact h
  | some x => exact h.feed hb x

/-- The copy that a push places in the response queue is a frame as its source is (R120). -/
theorem frameOk_copied {s : State} {src dst : BufName} (hne : src ≠ dst) (h : FrameOk s src)
    (hlen : s.completeLen src ≠ 0) :
    FrameOk ((s.copyBytes src dst (s.completeLen src).toNat).setCursors dst
      { fillPos := 0, completeLen := s.completeLen src }) dst := by
  obtain ⟨htwo, hcap, -, hsof, heof⟩ := h.1 hlen
  have hbyte (j : Nat) (hj : j < (s.completeLen src).toNat) :
      (s.copyBytes src dst (s.completeLen src).toNat).byteAt dst j = s.byteAt src j := by
    rw [copyBytes_byteAt s hne _ hcap dst j (by omega), if_pos ⟨rfl, hj⟩]
  refine ⟨fun _ => ?_, fun hfill => absurd (by simp) hfill⟩
  simp only [completeLen_setCursors, fillPos_setCursors, if_true, setCursors_byteAt]
  rw [hbyte 0 (by omega), hbyte _ (by omega)]
  exact ⟨htwo, hcap, trivial, hsof, heof⟩

theorem BuffersOk.rspPush {s t : State} (h : BuffersOk s) {src : BufName} (hreq : src.isReq = false)
    (hne : src ≠ s.rspTail) (hlen : s.completeLen src ≠ 0) (hpush : s.rspPush src = .ok t) : BuffersOk t := by
  refine h.update s.rspTail (rspPush_wf hpush h.mem) (fun _ hb => sameBuffer_rspPush hpush hne hb)
    ⟨fun _ => ?_, fun hb => (by cases hb)⟩
  rcases rspPush_cases hpush with ⟨-, rfl⟩ | ⟨-, -, rfl⟩
  · exact (h.each s.rspTail).frame rfl
  · exact frameOk_of_sameBuffer (sameBuffer_bumpWrite _ .rsp _) (frameOk_copied hne ((h.each src).frame hreq) hlen)

end Sys2Proof.Machine
end

section
/-! PROOFS. The slots of the queues under the invariant: which slots a publish and a release make published
or free, and that the response queue and the intercept queue keep their slots as the invariant has them
(20_memory.md R61; 41_spsc_queue.md R111 to R121). -/

namespace Sys2Proof.Machine

/-! ## Published slots (R61) -/

theorem slotPublished_iff (s : State) (q : Queue) (n i : Nat) :
    s.slotPublished q n i = true ↔
      (i + n - (s.readIdx q).toNat % n) % n < (s.count q).toNat :=
  decide_eq_true_iff

/-- Which slots are published depends on the queue's two counters alone. -/
theorem slotPublished_congr {s t : State} {q : Queue} (hw : t.writeIdx q = s.writeIdx q)
    (hr : t.readIdx q = s.readIdx q) (n i : Nat) : t.slotPublished q n i = s.slotPublished q n i := by
  rw [Bool.eq_iff_iff, slotPublished_iff, slotPublished_iff, State.count, State.count, hw, hr]

/-- The write slot is as many slots after the head slot as there are published ones (R121). -/
theorem writeIdx_mod (s : State) (q : Queue) {n : Nat} (hn : n = 2 ∨ n = 4) :
    (s.writeIdx q).toNat % n = ((s.readIdx q).toNat % n + (s.count q).toNat) % n := by
  have hw : s.writeIdx q = s.readIdx q + s.count q := by rw [State.count, BitVec.add_comm, BitVec.sub_add_cancel]
  rw [hw, BitVec.toNat_add]
  rcases hn with rfl | rfl <;> omega

theorem counter_succ_mod (r : Counter) {n : Nat} (hn : n = 2 ∨ n = 4) :
    (r + 1).toNat % n = (r.toNat % n + 1) % n := by
  rw [BitVec.toNat_add]
  rcases hn with rfl | rfl <;> simp only [BitVec.reduceToNat] <;> omega

/-- A publish adds one to the count of a queue with room. -/
theorem count_of_publish {s t : State} {q : Queue} (hw : t.writeIdx q = s.writeIdx q + 1)
    (hr : t.readIdx q = s.readIdx q) (hroom : (s.count q).toNat < 128) :
    (t.count q).toNat = (s.count q).toNat + 1 := by
  have hcount : t.count q = s.count q + 1 := by
    rw [State.count, State.count, hw, hr, add_sub_right_comm]
  rw [hcount]
  bv_omega

/-- A release takes one from the count of a queue that is not empty. -/
theorem count_of_release {s t : State} {q : Queue} (hw : t.writeIdx q = s.writeIdx q)
    (hr : t.readIdx q = s.readIdx q + 1) (hsome : s.count q ≠ 0) :
    (t.count q).toNat + 1 = (s.count q).toNat := by
  have hcount : s.count q = t.count q + 1 := by
    rw [State.count, State.count, hw, hr, sub_add_eq_sub_sub, BitVec.sub_add_cancel]
  rw [hcount] at hsome ⊢
  bv_omega

section Slots

variable {s t : State} {q : Queue} {n i : Nat}

/-- A publish adds the write slot to the published slots (R115). -/
theorem slotPublished_of_publish (hn : n = 2 ∨ n = 4) (hi : i < n) (hw : t.writeIdx q = s.writeIdx q + 1)
    (hr : t.readIdx q = s.readIdx q) (hroom : (s.count q).toNat < n) :
    t.slotPublished q n i = true ↔ s.slotPublished q n i = true ∨ i = (s.writeIdx q).toNat % n := by
  have hcount := count_of_publish hw hr (by omega)
  rw [slotPublished_iff, slotPublished_iff, hr, hcount, writeIdx_mod s q hn]
  rcases hn with rfl | rfl <;> omega

/-- A release takes the head slot from the published slots (R116). -/
theorem slotPublished_of_release (hn : n = 2 ∨ n = 4) (hi : i < n) (hw : t.writeIdx q = s.writeIdx q)
    (hr : t.readIdx q = s.readIdx q + 1) (hsome : s.count q ≠ 0) (hbound : (s.count q).toNat ≤ n) :
    t.slotPublished q n i = true ↔ s.slotPublished q n i = true ∧ i ≠ (s.readIdx q).toNat % n := by
  have hcount := count_of_release hw hr hsome
  rw [slotPublished_iff, slotPublished_iff, hr, counter_succ_mod _ hn]
  rcases hn with rfl | rfl <;> omega

/-- The write slot of a queue with room is not published (R118, R119). -/
theorem slotPublished_writeIdx (hn : n = 2 ∨ n = 4) (hroom : (s.count q).toNat < n) :
    ¬ s.slotPublished q n ((s.writeIdx q).toNat % n) = true := by
  rw [slotPublished_iff, writeIdx_mod s q hn]
  rcases hn with rfl | rfl <;> omega

end Slots

/-! ## The response queue -/

/-- What the invariant says of the response queue's slots (R113, R120). -/
structure ResponsesOk (s : State) : Prop where
  bound : (s.count .rsp).toNat ≤ Config.nRsp
  published : ∀ i : Fin Config.nRsp, s.slotPublished .rsp Config.nRsp i.val = true → s.completeLen (.rsp i) ≠ 0
  free : ∀ i : Fin Config.nRsp, ¬ s.slotPublished .rsp Config.nRsp i.val = true → s.idle (.rsp i) = true

theorem ResponsesOk.of_same {s t : State} (h : ResponsesOk s) (hw : t.rspW = s.rspW) (hr : t.rspR = s.rspR)
    (hsame : ∀ i, SameBuffer s t (.rsp i)) : ResponsesOk t := by
  have hslot (i : Nat) : t.slotPublished .rsp Config.nRsp i = s.slotPublished .rsp Config.nRsp i :=
    slotPublished_congr (q := .rsp) hw hr _ i
  refine ⟨?_, fun i hi => ?_, fun i hi => ?_⟩
  · rw [State.count, State.writeIdx, State.readIdx, hw, hr]
    exact h.bound
  · rw [(hsame i).completeLen]
    exact h.published i (hslot i ▸ hi)
  · rw [(hsame i).idle]
    exact h.free i (hslot i ▸ hi)

theorem rspTail_eq_iff (s : State) (i : Fin Config.nRsp) :
    BufName.rsp i = s.rspTail ↔ i.val = s.rspW.toNat % 4 := by
  rw [State.rspTail, BufName.rsp.injEq, Fin.ext_iff, slotOf_nRsp]

theorem rspHead_eq_iff (s : State) (i : Fin Config.nRsp) :
    BufName.rsp i = s.rspHead ↔ i.val = s.rspR.toNat % 4 := by
  rw [State.rspHead, BufName.rsp.injEq, Fin.ext_iff, slotOf_nRsp]

/-- Publishing a complete write slot keeps the response queue as the invariant has it. -/
theorem ResponsesOk.publish {s t : State} (h : ResponsesOk s) (hroom : s.qFull .rsp = false)
    (hw : t.rspW = s.rspW + 1) (hr : t.rspR = s.rspR) (htail : t.completeLen s.rspTail ≠ 0)
    (hother : ∀ i, BufName.rsp i ≠ s.rspTail → SameBuffer s t (.rsp i)) : ResponsesOk t := by
  have hlt : (s.count .rsp).toNat < 4 := by
    have hne : (s.count .rsp).toNat ≠ 4 := by simpa [State.qFull] using hroom
    have hle : (s.count .rsp).toNat ≤ 4 := h.bound
    omega
  have hslot (i : Fin Config.nRsp) : t.slotPublished .rsp 4 i.val = true ↔
      s.slotPublished .rsp 4 i.val = true ∨ BufName.rsp i = s.rspTail := by
    rw [rspTail_eq_iff]
    exact slotPublished_of_publish (.inr rfl) i.isLt hw hr hlt
  refine ⟨?_, fun i hi => ?_, fun i hi => ?_⟩
  · exact (count_of_publish (q := .rsp) hw hr (by omega)).trans_le hlt
  · by_cases hti : BufName.rsp i = s.rspTail
    · rw [hti]
      exact htail
    · rw [(hother i hti).completeLen]
      exact h.published i (((hslot i).1 hi).resolve_right hti)
  · rw [hslot, not_or] at hi
    rw [(hother i hi.2).idle]
    exact h.free i hi.1

theorem ResponsesOk.release {s : State} (h : ResponsesOk s) (hsome : s.qEmpty .rsp = false) :
    ResponsesOk (s.qRelease .rsp) := by
  have hne : s.count .rsp ≠ 0 := by simpa [State.qEmpty] using hsome
  have hslot (i : Fin Config.nRsp) : (s.qRelease .rsp).slotPublished .rsp 4 i.val = true ↔
      s.slotPublished .rsp 4 i.val = true ∧ BufName.rsp i ≠ s.rspHead := by
    rw [ne_eq, rspHead_eq_iff]
    exact slotPublished_of_release (.inr rfl) i.isLt rfl rfl hne h.bound
  have hother (b : BufName) (hb : b ≠ s.rspHead) : SameBuffer s (s.qRelease .rsp) b :=
    (sameBuffer_faClear s hb).trans (sameBuffer_bumpRead _ .rsp b)
  refine ⟨?_, fun i hi => ?_, fun i hi => ?_⟩
  · have hcount : ((s.qRelease .rsp).count .rsp).toNat + 1 = (s.count .rsp).toNat := count_of_release rfl rfl hne
    have hbound := h.bound
    omega
  · obtain ⟨hpub, hhead⟩ := (hslot i).1 hi
    rw [(hother _ hhead).completeLen]
    exact h.published i hpub
  · by_cases hhead : BufName.rsp i = s.rspHead
    · rw [hhead, idle_iff]
      exact ⟨by simp [qRelease_eq, State.clearHead], by simp [qRelease_eq, State.clearHead]⟩
    · rw [(hother _ hhead).idle]
      exact h.free i fun hpub => hi ((hslot i).2 ⟨hpub, hhead⟩)

/-- A push of a complete buffer keeps the response queue: the copy is dropped or published complete (R120). -/
theorem ResponsesOk.rspPush {s t : State} (h : ResponsesOk s) {src : BufName} (hne : src ≠ s.rspTail)
    (hlen : s.completeLen src ≠ 0) (hpush : s.rspPush src = .ok t) : ResponsesOk t := by
  have hother (i) (hi : BufName.rsp i ≠ s.rspTail) : SameBuffer s t (.rsp i) := sameBuffer_rspPush hpush hne hi
  rcases rspPush_cases hpush with ⟨-, rfl⟩ | ⟨hroom, -, rfl⟩
  · exact h.of_same rfl rfl fun i => .of_eq rfl rfl _
  · obtain ⟨m, hm⟩ := copyBytes_only s src s.rspTail (s.completeLen src).toNat
    refine h.publish hroom ?_ ?_ ?_ hother
    · rw [hm]; rfl
    · rw [hm]; rfl
    · simpa using hlen

/-! ## The intercept queue -/

/-- What the invariant says of the intercept queue's pairs (R113, R118). -/
structure PairsOk (s : State) : Prop where
  bound : (s.count .int).toNat ≤ Config.nInt - 1
  published : ∀ i : Fin Config.nInt, s.slotPublished .int Config.nInt i.val = true →
    s.completeLen (.int i .up) ≠ 0
  unpublished : ∀ i : Fin Config.nInt, ¬ s.slotPublished .int Config.nInt i.val = true →
    s.completeLen (.int i .up) = 0
  free : ∀ (i : Fin Config.nInt) (c : Chan), ¬ s.slotPublished .int Config.nInt i.val = true →
    i ≠ s.workingSlot → s.idle (.int i c) = true

theorem workingSlot_eq_iff (s : State) (i : Fin Config.nInt) : i = s.workingSlot ↔ i.val = s.intW.toNat % 2 := by
  rw [State.workingSlot, Fin.ext_iff, slotOf_nInt]

theorem intHead_eq_iff (s : State) (i : Fin Config.nInt) (c : Chan) :
    BufName.int i c = s.intHead c ↔ i.val = s.intR.toNat % 2 := by
  rw [State.intHead, BufName.int.injEq, Fin.ext_iff, slotOf_nInt]
  exact and_iff_left rfl

theorem PairsOk.working_unpublished {s : State} (h : PairsOk s) :
    ¬ s.slotPublished .int Config.nInt s.workingSlot.val = true := by
  have hbound : (s.count .int).toNat ≤ 1 := h.bound
  rw [(workingSlot_eq_iff s _).1 rfl]
  exact slotPublished_writeIdx (q := .int) (n := 2) (.inl rfl) (by omega)

theorem PairsOk.working_up {s : State} (h : PairsOk s) : s.completeLen (.int s.workingSlot .up) = 0 :=
  h.unpublished _ h.working_unpublished

/-- An operation on the working pair keeps the others; the UP frame must not stay complete (R118). -/
theorem PairsOk.of_working {s t : State} (h : PairsOk s) (hw : t.intW = s.intW) (hr : t.intR = s.intR)
    (hup : t.completeLen (.int s.workingSlot .up) = 0)
    (hother : ∀ i c, i ≠ s.workingSlot → SameBuffer s t (.int i c)) : PairsOk t := by
  have hslot (i : Nat) : t.slotPublished .int Config.nInt i = s.slotPublished .int Config.nInt i :=
    slotPublished_congr (q := .int) hw hr _ i
  have hwork : t.workingSlot = s.workingSlot := by rw [State.workingSlot, hw]; rfl
  refine ⟨?_, fun i hi => ?_, fun i hi => ?_, fun i c hi hne => ?_⟩
  · rw [State.count, State.writeIdx, State.readIdx, hw, hr]
    exact h.bound
  · rw [hslot] at hi
    have hne : i ≠ s.workingSlot := fun e => h.working_unpublished (e ▸ hi)
    rw [(hother i .up hne).completeLen]
    exact h.published i hi
  · rw [hslot] at hi
    by_cases hne : i = s.workingSlot
    · rw [hne]
      exact hup
    · rw [(hother i .up hne).completeLen]
      exact h.unpublished i hi
  · rw [hslot] at hi
    rw [hwork] at hne
    rw [(hother i c hne).idle]
    exact h.free i c hi hne

theorem PairsOk.of_same {s t : State} (h : PairsOk s) (hw : t.intW = s.intW) (hr : t.intR = s.intR)
    (hsame : ∀ i c, SameBuffer s t (.int i c)) : PairsOk t :=
  h.of_working hw hr ((hsame _ _).completeLen.trans h.working_up) fun i c _ => hsame i c

/-- Publishing the working pair makes the other slot the working one (R115, R118, R132). -/
theorem PairsOk.publish {s t : State} (h : PairsOk s) (hroom : s.qFull .int = false) (hw : t.intW = s.intW + 1)
    (hr : t.intR = s.intR) (hup : t.completeLen (.int s.workingSlot .up) ≠ 0)
    (hother : ∀ i c, i ≠ s.workingSlot → SameBuffer s t (.int i c)) : PairsOk t := by
  have hzero : (s.count .int).toNat = 0 := by simpa [State.qFull] using hroom
  have hcount : (t.count .int).toNat = 1 := by
    rw [count_of_publish (q := .int) hw hr (by omega), hzero]
  have hslot (i : Fin Config.nInt) : t.slotPublished .int 2 i.val = true ↔
      s.slotPublished .int 2 i.val = true ∨ i = s.workingSlot := by
    rw [workingSlot_eq_iff]
    exact slotPublished_of_publish (.inl rfl) i.isLt hw hr (by omega)
  refine ⟨hcount.le, fun i hi => ?_, fun i hi => ?_, fun i c hi _ => ?_⟩
  · by_cases hne : i = s.workingSlot
    · rw [hne]
      exact hup
    · rw [(hother i .up hne).completeLen]
      exact h.published i (((hslot i).1 hi).resolve_right hne)
  · rw [hslot, not_or] at hi
    rw [(hother i .up hi.2).completeLen]
    exact h.unpublished i hi.1
  · rw [hslot, not_or] at hi
    rw [(hother i c hi.2).idle]
    exact h.free i c hi.1 hi.2

theorem PairsOk.release {s : State} (h : PairsOk s) (hsome : s.qEmpty .int = false) :
    PairsOk (s.qRelease .int) := by
  have hne : s.count .int ≠ 0 := by simpa [State.qEmpty] using hsome
  have hbound : (s.count .int).toNat ≤ 1 := h.bound
  have hslot (i : Fin Config.nInt) (c : Chan) : (s.qRelease .int).slotPublished .int 2 i.val = true ↔
      s.slotPublished .int 2 i.val = true ∧ BufName.int i c ≠ s.intHead c := by
    rw [ne_eq, intHead_eq_iff]
    exact slotPublished_of_release (.inl rfl) i.isLt rfl rfl hne (by omega)
  have hcleared (i : Fin Config.nInt) (c : Chan) (hi : BufName.int i c = s.intHead c) :
      (s.qRelease .int).idle (.int i c) = true := by
    rw [idle_iff, State.fillPos, State.completeLen, qRelease_cursorsOf, hi]
    cases c <;> simp [Cursors.idle]
  have hother (i : Fin Config.nInt) (c : Chan) (hi : BufName.int i c ≠ s.intHead c) :
      SameBuffer s (s.qRelease .int) (.int i c) := by
    have hpair (c' : Chan) : BufName.int i c ≠ s.intHead c' := by
      rw [ne_eq, intHead_eq_iff] at hi
      intro e
      exact hi (by rw [State.intHead, BufName.int.injEq, Fin.ext_iff, slotOf_nInt] at e; exact e.1)
    exact ((sameBuffer_faClear s (hpair .up)).trans (sameBuffer_faClear _ (hpair .dn))).trans
      (sameBuffer_bumpRead _ .int _)
  have hidle (i : Fin Config.nInt) (c : Chan) (hi : ¬ (s.qRelease .int).slotPublished .int 2 i.val = true)
      (hsame : ¬ s.slotPublished .int 2 i.val = true → s.idle (.int i c) = true) :
      (s.qRelease .int).idle (.int i c) = true := by
    by_cases hhead : BufName.int i c = s.intHead c
    · exact hcleared i c hhead
    · rw [(hother i c hhead).idle]
      exact hsame fun hpub => hi ((hslot i c).2 ⟨hpub, hhead⟩)
  refine ⟨?_, fun i hi => ?_, fun i hi => ?_, fun i c hi hw => hidle i c hi fun hpub => h.free i c hpub hw⟩
  · have hcount : ((s.qRelease .int).count .int).toNat + 1 = (s.count .int).toNat := count_of_release rfl rfl hne
    show _ ≤ 1
    omega
  · obtain ⟨hpub, hhead⟩ := (hslot i .up).1 hi
    rw [(hother i .up hhead).completeLen]
    exact h.published i hpub
  · by_cases hhead : BufName.int i .up = s.intHead .up
    · exact ((idle_iff _ _).1 (hcleared i .up hhead)).2
    · rw [(hother i .up hhead).completeLen]
      exact h.unpublished i fun hpub => hi ((hslot i .up).2 ⟨hpub, hhead⟩)

end Sys2Proof.Machine
end

section
/-! PROOFS. The invariant of the block's runs is kept by every step of every agent: its four parts (buffers,
response queue, intercept queue, ENGINE), the host commands, and the eight ENGINE steps (10_state.md R22;
20_memory.md R61; 41_spsc_queue.md R113, R118; 43_bus_injector.md R159, R160, R165). -/

namespace Sys2Proof.Machine

/-! ## Reserved bits (R23, R24) -/

theorem reservedZero_iff (s : State) :
    s.reservedZero = true ↔ s.err.getLsbD 7 = false ∧ s.cfg &&& 0xFC = 0 := by
  have hbit : (0x80 : BitVec 8) = BitVec.twoPow 8 7 := rfl
  have herr : s.err &&& 0x80 = 0 ↔ s.err.getLsbD 7 = false := by
    rw [hbit, BitVec.and_twoPow]
    cases s.err.getLsbD 7 <;> decide
  simp only [State.reservedZero, Bool.and_eq_true, beq_iff_eq, herr]

theorem reservedZero_of_errKept {s t : State} (h : s.reservedZero = true) (herr : ErrKept s t)
    (hcfg : t.cfg = s.cfg) : t.reservedZero = true := by
  rw [reservedZero_iff] at h ⊢
  rw [herr.2, hcfg]
  exact h

theorem HostEffect.reservedZero {i : Instr} {s u : State} (he : HostEffect s i u)
    (h : s.reservedZero = true) : u.reservedZero = true := by
  cases he with
  | writeCfg sel data =>
    rw [reservedZero_iff] at h ⊢
    refine ⟨h.1, ?_⟩
    show data &&& 0x03 &&& 0xFC = 0
    rw [BitVec.and_assoc]
    exact BitVec.and_zero
  | clearErr =>
    rw [reservedZero_iff] at h ⊢
    exact ⟨BitVec.getLsbD_zero, h.2⟩
  | refusePublish => exact reservedZero_of_errKept h (errKept_raise s _) rfl
  | nothing | writeByte | setLen | publish | releasePair | releaseResponse =>
    exact reservedZero_of_errKept h (.of_eq rfl) rfl

/-! ## The ENGINE part of the invariant -/

/-- The operation of an ENGINE state (R78). -/
def EngineState.instr : EngineState → Instr
  | .snoop => .sSnoop
  | .eval => .sEval
  | .guard => .sGuard
  | .validate => .sValidate
  | .tx => .sTx
  | .cap => .sCap
  | .commit => .sCommit
  | .abort => .sAbort

theorem decodeFsm4_eq_instr {c : BitVec 4} {i : Instr} (h : decodeFsm4 c = .ok i) :
    ∃ e : EngineState, c = e.code ∧ i = e.instr := by
  unfold decodeFsm4 at h
  split at h
  case h_9 => cases h
  case h_1 hc => cases h; exact ⟨.snoop, BitVec.eq_of_toNat_eq hc, rfl⟩
  case h_2 hc => cases h; exact ⟨.eval, BitVec.eq_of_toNat_eq hc, rfl⟩
  case h_3 hc => cases h; exact ⟨.guard, BitVec.eq_of_toNat_eq hc, rfl⟩
  case h_4 hc => cases h; exact ⟨.validate, BitVec.eq_of_toNat_eq hc, rfl⟩
  case h_5 hc => cases h; exact ⟨.tx, BitVec.eq_of_toNat_eq hc, rfl⟩
  case h_6 hc => cases h; exact ⟨.cap, BitVec.eq_of_toNat_eq hc, rfl⟩
  case h_7 hc => cases h; exact ⟨.commit, BitVec.eq_of_toNat_eq hc, rfl⟩
  case h_8 hc => cases h; exact ⟨.abort, BitVec.eq_of_toNat_eq hc, rfl⟩

/-- What the invariant says of FSM, the bus outputs, the request queue, CAP and TXI. -/
structure EngineOk (s : State) : Prop where
  fsm : s.fsm.toNat < 8
  arb : s.arb = decide (2 ≤ s.fsm.toNat)
  attnN : s.attnN = decide (s.fsm.toNat < 4)
  bound : (s.count .req).toNat ≤ 1
  capIdle : s.fsm.toNat < 5 → s.idle .cap = true
  capComplete : s.completeLen .cap ≠ 0 ↔ s.fsm = EngineState.commit.code
  transaction : 2 ≤ s.fsm.toNat → s.count .req ≠ 0
  validated : 4 ≤ s.fsm.toNat → s.requestFramed = true
  sending : s.fsm = EngineState.tx.code → s.txi.toNat < (s.completeLen s.reqHead).toNat

/-- The parts of the invariant that an operation on buffers and queues must account for. -/
structure InvParts (s : State) : Prop where
  buffers : BuffersOk s
  responses : ResponsesOk s
  pairs : PairsOk s
  engine : EngineOk s

/-- The invariant is its parts. -/
theorem inv_iff (s : State) : Inv s ↔ s.faWord = none ∧ s.reservedZero = true ∧ InvParts s := by
  have hbus : s.busWindows = true ↔ s.arb = decide (2 ≤ s.fsm.toNat) ∧ s.attnN = decide (s.fsm.toNat < 4) := by
    simp [State.busWindows]
  have hcounts : s.countsBounded = true ↔ (s.count .int).toNat ≤ Config.nInt - 1 ∧
      (s.count .req).toNat ≤ Config.nReq ∧ (s.count .rsp).toNat ≤ Config.nRsp := by
    simp only [State.countsBounded, Bool.and_eq_true, decide_eq_true_eq, and_assoc]
  constructor
  · intro h
    obtain ⟨hint, hreq, hrsp⟩ := hcounts.1 h.counts
    obtain ⟨harb, hattn⟩ := hbus.1 h.bus
    refine ⟨h.faWord, h.reserved, ⟨h.mem, fun b => ⟨h.frames b, fun hb => ?_⟩⟩, ⟨hrsp, fun i hi => ?_, fun i hi => ?_⟩,
      ⟨hint, fun i hi => ?_, fun i hi => ?_, fun i c hi => h.freePairs i c (by simpa using hi)⟩,
      of_decide_eq_true h.fsm, harb, hattn, hreq, h.capture.1, h.capture.2, h.transaction, h.validated, h.sending⟩
    · cases b with
      | req i => exact h.requests i
      | int | rsp | cap => cases hb
    · exact (if_pos hi).mp (h.responses i)
    · exact (if_neg hi).mp (h.responses i)
    · exact (if_pos hi).mp (h.pairs i)
    · exact (if_neg hi).mp (h.pairs i)
  · rintro ⟨hfa, hres, ⟨hb, hr, hp, he⟩⟩
    exact {
      mem := hb.mem
      faWord := hfa
      fsm := decide_eq_true he.fsm
      bus := hbus.2 ⟨he.arb, he.attnN⟩
      reserved := hres
      counts := hcounts.2 ⟨hp.bound, he.bound, hr.bound⟩
      frames := fun b hreq => (hb.each b).frame hreq
      requests := fun i => (hb.each (.req i)).request rfl
      responses := fun i => by split <;> [exact hr.published i ‹_›; exact hr.free i ‹_›]
      pairs := fun i => by split <;> [exact hp.published i ‹_›; exact hp.unpublished i ‹_›]
      freePairs := fun i c hi => hp.free i c (by simpa using hi)
      working := by simpa using hp.working_unpublished
      capture := ⟨he.capIdle, he.capComplete⟩
      transaction := he.transaction
      validated := he.validated
      sending := he.sending }

/-! ## The request at the head -/

/-- The request queue has one slot (R6), which is its head and its write slot. -/
theorem reqHead_eq (s : State) : s.reqHead = .req 0 := congrArg BufName.req (Subsingleton.elim _ _)

theorem reqTail_eq (s : State) : s.reqTail = .req 0 := congrArg BufName.req (Subsingleton.elim _ _)

theorem BuffersOk.request_len {s : State} (h : BuffersOk s) :
    (s.completeLen (.req 0)).toNat ≤ Config.capacity :=
  ((h.each (.req 0)).request rfl).2

theorem requestFramed_of_sameBuffer {s t : State} (h : BuffersOk s) (hsame : SameBuffer s t (.req 0))
    (hframed : s.requestFramed = true) : t.requestFramed = true := by
  have hlen : (s.completeLen (.req 0)).toNat - 1 < Config.capacity := by
    have := h.request_len
    simp only [Config.capacity] at this ⊢
    omega
  simp only [State.requestFramed, reqHead_eq] at hframed ⊢
  rw [hsame.completeLen, hsame.byteAt (by decide), hsame.byteAt hlen]
  exact hframed

theorem requestFramed_len_pos {s : State} (h : s.requestFramed = true) :
    0 < (s.completeLen s.reqHead).toNat := by
  simp only [State.requestFramed, Bool.and_eq_true, bne_iff_ne] at h
  exact Nat.pos_of_ne_zero fun e => h.1.1 (BitVec.eq_of_toNat_eq e)

/-! ## Operations that leave ENGINE's part as it is -/

/-- No transaction is under way while the request queue has room (R151). -/
theorem EngineOk.count_eq_zero {s : State} (h : EngineOk s) (hroom : s.qFull .req = false) :
    s.count .req = 0 := by
  have hne : (s.count .req).toNat ≠ 1 := by simpa [State.qFull] using hroom
  have hle := h.bound
  refine BitVec.eq_of_toNat_eq ?_
  show (s.count .req).toNat = 0
  omega

theorem EngineOk.fsm_lt_two {s : State} (h : EngineOk s) (hroom : s.qFull .req = false) : s.fsm.toNat < 2 :=
  not_le.1 fun hle => h.transaction hle (h.count_eq_zero hroom)

/-- What another agent's step leaves of ENGINE's part: its registers, CAP, and the request of a transaction. -/
theorem EngineOk.of_same {s t : State} (h : EngineOk s) (hb : BuffersOk s) (hfsm : t.fsm = s.fsm)
    (harb : t.arb = s.arb) (hattn : t.attnN = s.attnN) (htxi : t.txi = s.txi) (hcap : SameBuffer s t .cap)
    (hreq : t.count .req = s.count .req ∧ SameBuffer s t (.req 0) ∨
      (t.count .req).toNat ≤ 1 ∧ s.fsm.toNat < 2) : EngineOk t := by
  have hlate (n : Nat) (hn : 2 ≤ n) (ht : n ≤ t.fsm.toNat) :
      n ≤ s.fsm.toNat ∧ t.count .req = s.count .req ∧ SameBuffer s t (.req 0) := by
    rw [hfsm] at ht
    exact ⟨ht, hreq.resolve_right fun ⟨_, hlt⟩ => by omega⟩
  refine ⟨hfsm ▸ h.fsm, by rw [harb, hfsm, h.arb], by rw [hattn, hfsm, h.attnN], ?_, fun ht => ?_, ?_, fun ht => ?_,
    fun ht => ?_, fun ht => ?_⟩
  · obtain ⟨hcount, -⟩ | ⟨hle, -⟩ := hreq
    · exact hcount ▸ h.bound
    · exact hle
  · rw [hcap.idle]
    exact h.capIdle (hfsm ▸ ht)
  · rw [hcap.completeLen, hfsm]
    exact h.capComplete
  · obtain ⟨hs, hcount, -⟩ := hlate 2 le_rfl ht
    rw [hcount]
    exact h.transaction hs
  · obtain ⟨hs, -, hsame⟩ := hlate 4 (by omega) ht
    exact requestFramed_of_sameBuffer hb hsame (h.validated hs)
  · obtain ⟨-, -, hsame⟩ := hlate 4 (by omega) (by rw [ht]; decide)
    have hsend := h.sending (hfsm ▸ ht)
    rw [reqHead_eq] at hsend ⊢
    rw [hsame.completeLen, htxi]
    exact hsend

/-! ## The agents other than ENGINE -/

/-- The invariant does not speak of time stamps, of the bytes and moves to come, or of the step's record. -/
theorem Inv.of_untracked {s : State} (h : Inv s) (t0 now : Time) (fresh : Bool) (rx : List Byte)
    (tape : List Move) (moves : Nat) (fb : BufName) (o : Out) :
    Inv { s with
      t0 := t0, now := now, errFresh := fresh, xcvRx := rx, tape := tape, moves := moves, faBuf := fb, out := o } := by
  obtain ⟨hfa, hres, ⟨hb, hr, hp, he⟩⟩ := (inv_iff s).1 h
  exact (inv_iff _).2 ⟨hfa, hres, hb.of_eq rfl rfl, hr.of_same rfl rfl fun _ => .of_eq rfl rfl _,
    hp.of_same rfl rfl fun _ _ => .of_eq rfl rfl _,
    he.of_same hb rfl rfl rfl rfl (.of_eq rfl rfl _) (.inl ⟨rfl, .of_eq rfl rfl _⟩)⟩

/-- The effect of a host command keeps each part of the invariant (R61: HOST keeps to the buffers it owns). -/
theorem HostEffect.inv {i : Instr} {s u : State} (he : HostEffect s i u) (h : Inv s) : Inv u := by
  obtain ⟨hfa, hres, ⟨hb, hr, hp, heng⟩⟩ := (inv_iff s).1 h
  obtain ⟨-, harb, hattn, htxi, -, hfsm, -, hfaw⟩ := he.registers
  have hengine (hcap : SameBuffer s u .cap)
      (hreq : u.count .req = s.count .req ∧ SameBuffer s u (.req 0) ∨
        (u.count .req).toNat ≤ 1 ∧ s.fsm.toNat < 2) : EngineOk u :=
    heng.of_same hb hfsm harb hattn htxi hcap hreq
  refine (inv_iff u).2 ⟨hfaw.trans hfa, he.reservedZero hres, ?_⟩
  cases he with
  | nothing | writeCfg | clearErr | refusePublish =>
    exact ⟨hb.of_eq rfl rfl, hr.of_same rfl rfl fun _ => .of_eq rfl rfl _,
      hp.of_same rfl rfl fun _ _ => .of_eq rfl rfl _, hengine (.of_eq rfl rfl _) (.inl ⟨rfl, .of_eq rfl rfl _⟩)⟩
  | writeByte idx data hidx hroom =>
    have hlt : idx.toNat < Config.capacity := Nat.lt_succ_of_le hidx
    have hother (b : BufName) (hne : b ≠ .req 0) : SameBuffer s (s.putByte (.req 0) idx.toNat data) b :=
      sameBuffer_putByte s data hlt hne
    rw [reqTail_eq] at hengine ⊢
    exact ⟨hb.putByte_req 0 data hlt, hr.of_same rfl rfl fun i => hother _ (by simp),
      hp.of_same rfl rfl fun i c => hother _ (by simp),
      hengine (hother _ (by simp)) (.inr ⟨heng.bound, heng.fsm_lt_two hroom⟩)⟩
  | setLen data hlen hroom =>
    have hother (b : BufName) (hne : b ≠ .req 0) : SameBuffer s (s.setCompleteLen (.req 0) data) b :=
      sameBuffer_setCursors s _ hne
    rw [reqTail_eq] at hengine ⊢
    exact ⟨hb.setCompleteLen_req 0 hlen, hr.of_same rfl rfl fun i => hother _ (by simp),
      hp.of_same rfl rfl fun i c => hother _ (by simp),
      hengine (hother _ (by simp)) (.inr ⟨heng.bound, heng.fsm_lt_two hroom⟩)⟩
  | publish hroom =>
    have hcount : ((s.qPublish .req).count .req).toNat = 1 := by
      have hzero := heng.count_eq_zero hroom
      have hone := count_of_publish (s := s) (t := s.qPublish .req) (q := .req) rfl rfl (by rw [hzero]; decide)
      rw [hone, hzero]
      rfl
    exact ⟨hb.of_eq rfl rfl, hr.of_same rfl rfl fun _ => .of_eq rfl rfl _,
      hp.of_same rfl rfl fun _ _ => .of_eq rfl rfl _,
      hengine (.of_eq rfl rfl _) (.inr ⟨hcount.le, heng.fsm_lt_two hroom⟩)⟩
  | releasePair hsome =>
    have hother (b : BufName) (hne : ∀ i c, b ≠ .int i c) : SameBuffer s (s.qRelease .int) b :=
      ((sameBuffer_faClear s (hne _ _)).trans (sameBuffer_faClear _ (hne _ _))).trans
        (sameBuffer_bumpRead _ .int b)
    exact ⟨hb.qRelease .int, hr.of_same rfl rfl fun i => hother _ (by simp), hp.release hsome,
      hengine (hother _ (by simp)) (.inl ⟨rfl, hother _ (by simp)⟩)⟩
  | releaseResponse hsome =>
    have hother (b : BufName) (hne : ∀ i, b ≠ .rsp i) : SameBuffer s (s.qRelease .rsp) b :=
      (sameBuffer_faClear s (hne _)).trans (sameBuffer_bumpRead _ .rsp b)
    exact ⟨hb.qRelease .rsp, hr.release hsome, hp.of_same rfl rfl fun i c => hother _ (by simp),
      hengine (hother _ (by simp)) (.inl ⟨rfl, hother _ (by simp)⟩)⟩

/-- Every host command keeps the invariant. -/
theorem inv_exec_host {i : Instr} {s t : State} (hi : i.format = .cmd32) (h : Inv s)
    (hexec : exec i s = .next t) : Inv t := by
  obtain ⟨u, fresh, result, he, rfl⟩ := exec_host_effect hi hexec
  exact (he.inv h).of_untracked _ _ fresh _ _ _ _ _

/-! ## ENGINE's part after an ENGINE step -/

theorem EngineOk.arb_of_fsm {s : State} {e : EngineState} (h : EngineOk s) (hs : s.fsm = e.code) :
    s.arb = decide (2 ≤ e.code.toNat) := by rw [h.arb, hs]

theorem EngineOk.attnN_of_fsm {s : State} {e : EngineState} (h : EngineOk s) (hs : s.fsm = e.code) :
    s.attnN = decide (e.code.toNat < 4) := by rw [h.attnN, hs]

theorem code_inj {e e' : EngineState} : e.code = e'.code ↔ e = e' := by
  cases e <;> cases e' <;> decide

theorem code_lt (e : EngineState) : e.code.toNat < 8 := by
  cases e <;> decide

/-- ENGINE's part, by the state that FSM then holds. -/
theorem engineOk_goto {u : State} {e : EngineState} (harb : u.arb = decide (2 ≤ e.code.toNat))
    (hattn : u.attnN = decide (e.code.toNat < 4)) (hbound : (u.count .req).toNat ≤ 1)
    (hidle : e.code.toNat < 5 → u.idle .cap = true) (hcomplete : u.completeLen .cap ≠ 0 ↔ e = .commit)
    (htransaction : 2 ≤ e.code.toNat → u.count .req ≠ 0) (hvalidated : 4 ≤ e.code.toNat → u.requestFramed = true)
    (hsending : e = .tx → u.txi.toNat < (u.completeLen u.reqHead).toNat) : EngineOk (u.goto e) :=
  ⟨code_lt e, harb, hattn, hbound, hidle, hcomplete.trans code_inj.symm, htransaction, hvalidated,
    fun h => hsending (code_inj.1 h)⟩

/-- S_SNOOP and S_EVAL: no transaction, the bus released and CAP idle. -/
theorem engineOk_goto_free {u : State} {e : EngineState} (he : e = .snoop ∨ e = .eval) (harb : u.arb = false)
    (hattn : u.attnN = true) (hbound : (u.count .req).toNat ≤ 1) (hcap : u.idle .cap = true) :
    EngineOk (u.goto e) := by
  have hnone : ¬ u.completeLen .cap ≠ 0 := fun h => h ((idle_iff u _).1 hcap).2
  rcases he with rfl | rfl <;>
    exact engineOk_goto harb hattn hbound (fun _ => hcap) (iff_of_false hnone (by decide))
      (fun h => absurd h (by decide)) (fun h => absurd h (by decide)) (fun h => absurd h (by decide))

/-- S_GUARD and S_VALIDATE: the bus is taken for the request at the head, which is not validated yet. -/
theorem engineOk_goto_requested {u : State} {e : EngineState} (he : e = .guard ∨ e = .validate)
    (harb : u.arb = true) (hattn : u.attnN = true) (hbound : (u.count .req).toNat ≤ 1)
    (hsome : u.count .req ≠ 0) (hcap : u.idle .cap = true) : EngineOk (u.goto e) := by
  have hnone : ¬ u.completeLen .cap ≠ 0 := fun h => h ((idle_iff u _).1 hcap).2
  rcases he with rfl | rfl <;>
    exact engineOk_goto harb hattn hbound (fun _ => hcap) (iff_of_false hnone (by decide)) (fun _ => hsome)
      (fun h => absurd h (by decide)) (fun h => absurd h (by decide))

/-- The request at the head is queued and validated, and the bus is held for it (R153, R159, R160). -/
structure RequestValidated (s : State) : Prop where
  arb : s.arb = true
  attnN : s.attnN = false
  bound : (s.count .req).toNat ≤ 1
  queued : s.count .req ≠ 0
  framed : s.requestFramed = true

theorem EngineOk.requestValidated {s : State} (h : EngineOk s) (hs : 4 ≤ s.fsm.toNat) : RequestValidated s :=
  ⟨h.arb.trans (decide_eq_true (by omega)), h.attnN.trans (decide_eq_false (by omega)), h.bound,
    h.transaction (by omega), h.validated hs⟩

theorem RequestValidated.of_same {s u : State} (h : RequestValidated s) (hb : BuffersOk s) (harb : u.arb = s.arb)
    (hattn : u.attnN = s.attnN) (hcount : u.count .req = s.count .req) (hsame : SameBuffer s u (.req 0)) :
    RequestValidated u :=
  ⟨harb.trans h.arb, hattn.trans h.attnN, hcount ▸ h.bound, hcount ▸ h.queued,
    requestFramed_of_sameBuffer hb hsame h.framed⟩

/-- S_TX: the request is validated and a byte of it is left to send. -/
theorem engineOk_goto_tx {u : State} (h : RequestValidated u) (hcap : u.idle .cap = true)
    (hsend : u.txi.toNat < (u.completeLen u.reqHead).toNat) : EngineOk (u.goto .tx) :=
  engineOk_goto h.arb h.attnN h.bound (fun _ => hcap)
    (iff_of_false (fun hc => hc ((idle_iff u _).1 hcap).2) (by decide)) (fun _ => h.queued) (fun _ => h.framed)
    (fun _ => hsend)

/-- S_CAP, S_COMMIT and S_ABORT: the request is sent, and CAP is complete exactly in S_COMMIT. -/
theorem engineOk_goto_sent {u : State} {e : EngineState} (he : e = .cap ∨ e = .commit ∨ e = .abort)
    (h : RequestValidated u) (hcap : u.completeLen .cap ≠ 0 ↔ e = .commit) : EngineOk (u.goto e) := by
  rcases he with rfl | rfl | rfl <;>
    exact engineOk_goto h.arb h.attnN h.bound (fun hlt => absurd hlt (by decide)) hcap (fun _ => h.queued)
      (fun _ => h.framed) (fun htx => absurd htx (by decide))

theorem engineOk_capDeadline {u : State} (h : RequestValidated u) (hcap : u.completeLen .cap = 0) :
    EngineOk u.capDeadline := by
  rcases capDeadline_cases u with ⟨-, e⟩ | ⟨-, e⟩ <;> rw [e]
  · exact engineOk_goto_sent (.inr (.inr rfl)) ⟨h.arb, h.attnN, h.bound, h.queued, h.framed⟩
      (iff_of_false (not_not.2 hcap) (by decide))
  · exact engineOk_goto_sent (.inl rfl) h (iff_of_false (not_not.2 hcap) (by decide))

/-! ## The injector's steps -/

/-- A step of the injector that pushes no response writes no buffer but CAP and the request's. -/
theorem InvParts.of_injector {s t : State} (h : InvParts s) (hb : BuffersOk t) (he : EngineOk t)
    (hother : ∀ b, b ≠ .cap → b ≠ .req 0 → SameBuffer s t b) (hintW : t.intW = s.intW) (hintR : t.intR = s.intR)
    (hrspW : t.rspW = s.rspW) (hrspR : t.rspR = s.rspR) : InvParts t :=
  ⟨hb, h.responses.of_same hrspW hrspR fun i => hother _ (by simp) (by simp),
    h.pairs.of_same hintW hintR fun i c => hother _ (by simp) (by simp), he⟩

theorem InvParts.execSEval {s t : State} (h : InvParts s) (hs : s.fsm = EngineState.eval.code)
    (hexec : execSEval s = .next t) : InvParts t := by
  have hattn : s.attnN = true := h.engine.attnN_of_fsm hs
  have hcap : s.idle .cap = true := h.engine.capIdle (by rw [hs]; decide)
  rcases execSEval_cases hexec with ⟨hmay, rfl⟩ | ⟨-, rfl⟩
  · have hsome : s.count .req ≠ 0 := by
      simp only [State.mayInject, State.qEmpty, Bool.and_eq_true, Bool.not_eq_true', beq_eq_false_iff_ne] at hmay
      exact hmay.1.2
    exact h.of_injector (h.buffers.of_eq rfl rfl)
      (engineOk_goto_requested (.inl rfl) rfl hattn h.engine.bound hsome hcap) (fun b _ _ => .of_eq rfl rfl b)
      rfl rfl rfl rfl
  · exact h.of_injector (h.buffers.of_eq rfl rfl)
      (engineOk_goto_free (.inl rfl) (h.engine.arb_of_fsm hs) hattn h.engine.bound hcap)
      (fun b _ _ => .of_eq rfl rfl b) rfl rfl rfl rfl

theorem InvParts.execSGuard {s t : State} (h : InvParts s) (hs : s.fsm = EngineState.guard.code)
    (hexec : execSGuard s = .next t) : InvParts t := by
  have hattn : s.attnN = true := h.engine.attnN_of_fsm hs
  have hcap : s.idle .cap = true := h.engine.capIdle (by rw [hs]; decide)
  rcases execSGuard_cases hexec with ⟨-, rfl⟩ | ⟨-, -, rfl⟩ | ⟨-, -, rfl⟩
  · exact h
  · exact h.of_injector (h.buffers.of_eq rfl rfl)
      (engineOk_goto_requested (.inr rfl) (h.engine.arb_of_fsm hs) hattn h.engine.bound
        (h.engine.transaction (by rw [hs]; decide)) hcap)
      (fun b _ _ => .of_eq rfl rfl b) rfl rfl rfl rfl
  · exact h.of_injector (h.buffers.of_eq rfl rfl)
      (engineOk_goto_free (.inl rfl) rfl hattn h.engine.bound hcap) (fun b _ _ => .of_eq rfl rfl b)
      rfl rfl rfl rfl

/-- Releasing the request empties the request queue (R116). -/
theorem EngineOk.count_release {s t : State} (h : EngineOk s) (hs : 2 ≤ s.fsm.toNat) (hw : t.reqW = s.reqW)
    (hr : t.reqR = s.reqR + 1) : (t.count .req).toNat ≤ 1 := by
  have hcount : (t.count .req).toNat + 1 = (s.count .req).toNat :=
    count_of_release (q := .req) hw hr (h.transaction hs)
  have hbound := h.bound
  omega

theorem InvParts.execSValidate {s t : State} (h : InvParts s) (hs : s.fsm = EngineState.validate.code)
    (hexec : execSValidate s = .next t) : InvParts t := by
  have hcap : s.idle .cap = true := h.engine.capIdle (by rw [hs]; decide)
  have hlate : 2 ≤ s.fsm.toNat := by rw [hs]; decide
  obtain ⟨-, ⟨hframed, rfl⟩ | ⟨-, rfl⟩⟩ := execSValidate_cases hexec
  · exact h.of_injector (h.buffers.of_eq rfl rfl)
      (engineOk_goto_tx
        ⟨h.engine.arb_of_fsm hs, rfl, h.engine.bound, h.engine.transaction hlate, hframed⟩ hcap
        (requestFramed_len_pos hframed))
      (fun b _ _ => .of_eq rfl rfl b) rfl rfl rfl rfl
  · have hother (b : BufName) (hb : b ≠ .req 0) : SameBuffer s ((s.raise .framing).qRelease .req) b :=
      (SameBuffer.of_eq (t := s.raise .framing) rfl rfl b).trans
        ((sameBuffer_faClear _ (by rwa [reqHead_eq])).trans (sameBuffer_bumpRead _ .req b))
    have hraised : BuffersOk (s.raise .framing) := h.buffers.of_eq rfl rfl
    exact h.of_injector ((hraised.qRelease .req).of_eq rfl rfl)
      (engineOk_goto_free (.inl rfl) rfl (h.engine.attnN_of_fsm hs) (h.engine.count_release hlate rfl rfl)
        ((hother .cap (by simp)).idle.trans hcap))
      (fun b _ hb => (hother b hb).trans (.of_eq rfl rfl b)) rfl rfl rfl rfl

theorem InvParts.execSTx {s t : State} (h : InvParts s) (hs : s.fsm = EngineState.tx.code)
    (hexec : execSTx s = .next t) : InvParts t := by
  have hvalid : RequestValidated s := h.engine.requestValidated (by rw [hs]; decide)
  have hsend : s.txi.toNat < (s.completeLen s.reqHead).toNat := h.engine.sending hs
  rcases execSTx_cases hexec with ⟨-, rfl⟩ | ⟨-, -, -, ⟨-, rfl⟩ | ⟨hmore, rfl⟩⟩
  · exact h
  · have hother (b : BufName) (hb : b ≠ .cap) : SameBuffer s (s.faClear .cap) b := sameBuffer_faClear s hb
    exact h.of_injector ((h.buffers.faClear .cap).of_eq rfl rfl)
      (engineOk_goto_sent (.inl rfl)
        (hvalid.of_same h.buffers rfl rfl rfl ((hother _ (by simp)).trans (.of_eq rfl rfl _)))
        (iff_of_false (fun hc => hc ((faClear_completeLen _ _ _).trans (if_pos rfl))) (by decide)))
      (fun b hb _ => (hother b hb).trans (.of_eq rfl rfl b)) rfl rfl rfl rfl
  · have hnext : (s.txi + 1).toNat < (s.completeLen s.reqHead).toNat := by bv_omega
    exact h.of_injector (h.buffers.of_eq rfl rfl)
      (engineOk_goto_tx (hvalid.of_same h.buffers rfl rfl rfl (.of_eq rfl rfl _))
        (h.engine.capIdle (by rw [hs]; decide)) hnext)
      (fun b _ _ => .of_eq rfl rfl b) rfl rfl rfl rfl

theorem InvParts.execSAbort {s t : State} (h : InvParts s) (hexec : execSAbort s = .next t) : InvParts t := by
  obtain rfl := execSAbort_next hexec
  have hother (b : BufName) (hb : b ≠ .cap) : SameBuffer s (s.faClear .cap) b := sameBuffer_faClear s hb
  exact h.of_injector ((h.buffers.faClear .cap).of_eq rfl rfl)
    (engineOk_goto_free (.inl rfl) rfl rfl h.engine.bound (by simp [idle_iff]))
    (fun b hb _ => (hother b hb).trans (.of_eq rfl rfl b)) rfl rfl rfl rfl

/-- What a poll leaves may differ from the state before in CAP, in the bytes received, in ERR and in what is
shown; S_CAP then ends in S_COMMIT with a complete frame, and in the deadline test without one (R155). -/
theorem InvParts.of_poll {s u : State} (h : InvParts s) (hs : s.fsm = EngineState.cap.code) (hb : BuffersOk u)
    (hother : ∀ b, b ≠ .cap → SameBuffer s u b)
    (honly : ∃ m c e x o, u = { s with mem := m, cursors := c, err := e, xcvRx := x, out := o }) :
    (u.completeLen .cap ≠ 0 → InvParts (u.goto .commit)) ∧ (u.completeLen .cap = 0 → InvParts u.capDeadline) := by
  have hvalid : RequestValidated u := by
    obtain ⟨m, c, e, x, o, rfl⟩ := honly
    exact (h.engine.requestValidated (by rw [hs]; decide)).of_same h.buffers rfl rfl rfl (hother (.req 0) (by simp))
  obtain ⟨hintW, hintR, hrspW, hrspR⟩ :
      u.intW = s.intW ∧ u.intR = s.intR ∧ u.rspW = s.rspW ∧ u.rspR = s.rspR := by
    obtain ⟨m, c, e, x, o, rfl⟩ := honly
    exact ⟨rfl, rfl, rfl, rfl⟩
  refine ⟨fun hcap => ?_, fun hcap => ?_⟩
  · exact h.of_injector (hb.of_eq rfl rfl) (engineOk_goto_sent (.inr (.inl rfl)) hvalid (iff_of_true hcap rfl))
      (fun b hne _ => (hother b hne).trans (.of_eq rfl rfl b)) hintW hintR hrspW hrspR
  · have hengine := engineOk_capDeadline hvalid hcap
    obtain ⟨e, f, o, hend⟩ := capDeadline_only u
    rw [hend] at hengine ⊢
    exact h.of_injector (hb.of_eq rfl rfl) hengine (fun b hne _ => (hother b hne).trans (.of_eq rfl rfl b))
      hintW hintR hrspW hrspR

theorem InvParts.execSCap {s t : State} (h : InvParts s) (hs : s.fsm = EngineState.cap.code)
    (hexec : execSCap s = .next t) : InvParts t := by
  have hzero : s.completeLen .cap = 0 :=
    not_not.1 fun hc => absurd (hs.symm.trans (h.engine.capComplete.1 hc)) (by decide)
  rcases execSCap_cases hexec with ⟨-, rfl⟩ | ⟨x, rest, -, hpoll⟩
  · exact (h.of_poll hs h.buffers (fun b _ => .refl s b) ⟨_, _, _, _, _, rfl⟩).2 hzero
  · have hpolled : BuffersOk { s with xcvRx := rest } := h.buffers.of_eq rfl rfl
    rcases hpoll with ⟨-, -, rfl⟩ | ⟨-, hfeed⟩
    · exact (h.of_poll (u := ({ s with xcvRx := rest } : State).raise .glitch) hs (hpolled.of_eq rfl rfl)
        (fun b _ => .of_eq rfl rfl b) ⟨_, _, _, _, _, rfl⟩).2 hzero
    · have hcomplete := feed_completeLen_ne_zero_iff { s with xcvRx := rest } .cap x hzero
      have hother (b : BufName) (hb : b ≠ .cap) : SameBuffer s (({ s with xcvRx := rest } : State).feed .cap x).1 b :=
        (SameBuffer.of_eq (t := { s with xcvRx := rest }) rfl rfl b).trans (sameBuffer_feed _ x hb)
      obtain ⟨m, c, e, o, hfed⟩ := feed_only { s with xcvRx := rest } .cap x
      have hafter := h.of_poll hs (hpolled.feed rfl x) hother ⟨m, c, e, rest, o, hfed⟩
      rcases hfeed with ⟨n, hn, rfl⟩ | ⟨hnone, rfl⟩
      · exact hafter.1 (hcomplete.2 ⟨n, hn⟩)
      · exact hafter.2 (not_not.1 fun hc => (hcomplete.1 hc).elim hnone)

/-! ## Pushes into the response queue (R120, R133) -/

/-- What a push, or a mirroring, leaves: only response buffers are written, and they are well. -/
structure KeepsResponses (s t : State) : Prop where
  buffers : BuffersOk t
  responses : ResponsesOk t
  others : ∀ b, (∀ i, b ≠ .rsp i) → SameBuffer s t b
  only : ∃ m c e r o, t = { s with mem := m, cursors := c, err := e, rspW := r, out := o }

theorem KeepsResponses.refl {s : State} (hb : BuffersOk s) (hr : ResponsesOk s) : KeepsResponses s s :=
  ⟨hb, hr, fun b _ => .refl s b, ⟨_, _, _, _, _, rfl⟩⟩

theorem KeepsResponses.trans {s t u : State} (hst : KeepsResponses s t) (htu : KeepsResponses t u) :
    KeepsResponses s u := by
  refine ⟨htu.buffers, htu.responses, fun b hb => (hst.others b hb).trans (htu.others b hb), ?_⟩
  obtain ⟨m, c, e, r, o, rfl⟩ := hst.only
  obtain ⟨m', c', e', r', o', rfl⟩ := htu.only
  exact ⟨_, _, _, _, _, rfl⟩

theorem rspPush_keepsResponses {s t : State} {src : BufName} (hb : BuffersOk s) (hr : ResponsesOk s)
    (hreq : src.isReq = false) (hrsp : ∀ i, src ≠ .rsp i) (hlen : s.completeLen src ≠ 0)
    (h : s.rspPush src = .ok t) : KeepsResponses s t :=
  ⟨hb.rspPush hreq (hrsp _) hlen h, hr.rspPush (hrsp _) hlen h,
    fun _ hne => sameBuffer_rspPush h (hrsp _) (hne _), rspPush_only h⟩

theorem mirrorOne_keepsResponses {s t : State} {w : Fin Config.nInt} {c : Chan} (hb : BuffersOk s)
    (hr : ResponsesOk s) (h : s.mirrorOne w c = .ok t) : KeepsResponses s t := by
  rcases mirrorOne_cases h with rfl | ⟨hlen, hpush⟩
  · exact .refl hb hr
  · exact rspPush_keepsResponses hb hr rfl (by simp) hlen hpush

/-- A published pair is mirrored, or not, before INT_W moves (R132, R133). -/
theorem publishPair_keepsResponses {s t : State} {w : Fin Config.nInt} (hb : BuffersOk s) (hr : ResponsesOk s)
    (h : s.publishPair w = .ok t) : ∃ u, KeepsResponses s u ∧ t = u.bumpWrite .int := by
  rcases publishPair_cases h with ⟨-, rfl⟩ | ⟨-, u, hmirror, rfl⟩
  · exact ⟨s, .refl hb hr, rfl⟩
  · obtain ⟨_, _, v, -, hv, hu⟩ := mirror_cases hmirror
    have hfirst := mirrorOne_keepsResponses hb hr hv
    exact ⟨u, hfirst.trans (mirrorOne_keepsResponses hfirst.buffers hfirst.responses hu), rfl⟩

theorem InvParts.execSCommit {s t : State} (h : InvParts s) (hs : s.fsm = EngineState.commit.code)
    (hexec : execSCommit s = .next t) : InvParts t := by
  obtain ⟨u, hpush, rfl⟩ := execSCommit_cases hexec
  have hkeeps := rspPush_keepsResponses (s := { s with arb := false, attnN := true })
    (h.buffers.of_eq rfl rfl) (h.responses.of_same rfl rfl fun _ => .of_eq rfl rfl _) rfl (by simp)
    (h.engine.capComplete.2 hs) hpush
  have hbuf : BuffersOk ((u.qRelease .req).faClear .cap) := (hkeeps.buffers.qRelease .req).faClear .cap
  have hafter (b : BufName) (hcap : b ≠ .cap) (hreq : b ≠ .req 0) :
      SameBuffer u ((u.qRelease .req).faClear .cap) b :=
    ((sameBuffer_faClear u (by rwa [reqHead_eq])).trans (sameBuffer_bumpRead _ .req b)).trans
      (sameBuffer_faClear _ hcap)
  have hpair (i : Fin Config.nInt) (c : Chan) :
      SameBuffer { s with arb := false, attnN := true } ((u.qRelease .req).faClear .cap) (.int i c) :=
    (hkeeps.others _ (by simp)).trans (hafter _ (by simp) (by simp))
  have hresponses := hkeeps.responses
  obtain ⟨m, c, e, r, o, rfl⟩ := hkeeps.only
  exact ⟨hbuf.of_eq rfl rfl,
    hresponses.of_same rfl rfl fun i => (hafter _ (by simp) (by simp)).trans (.of_eq rfl rfl _),
    h.pairs.of_same rfl rfl fun i c => (hpair i c).trans (.of_eq rfl rfl _),
    engineOk_goto_free (.inl rfl) rfl rfl (h.engine.count_release (by rw [hs]; decide) rfl rfl)
      (by simp [idle_iff])⟩

/-! ## The snooper's step -/

/-- S_SNOOP ends in S_EVAL with the working pair, the response queue and INT_W to account for (R130). -/
theorem InvParts.of_snoop {s t : State} (h : InvParts s) (hs : s.fsm = EngineState.snoop.code) (hb : BuffersOk t)
    (hr : ResponsesOk t) (hp : PairsOk t) (hcap : SameBuffer s t .cap)
    (honly : ∃ m c e n r o, t = { s with mem := m, cursors := c, err := e, intW := n, rspW := r, out := o }) :
    InvParts (t.goto .eval) := by
  refine ⟨hb.of_eq rfl rfl, hr.of_same rfl rfl fun _ => .of_eq rfl rfl _,
    hp.of_same rfl rfl fun _ _ => .of_eq rfl rfl _, ?_⟩
  have hidle : t.idle .cap = true := hcap.idle.trans (h.engine.capIdle (by rw [hs]; decide))
  obtain ⟨m, c, e, n, r, o, rfl⟩ := honly
  exact engineOk_goto_free (.inr rfl) (h.engine.arb_of_fsm hs) (h.engine.attnN_of_fsm hs) h.engine.bound hidle

theorem InvParts.execSSnoop {s t : State} (h : InvParts s) (hs : s.fsm = EngineState.snoop.code)
    (hexec : execSSnoop s = .next t) : InvParts t := by
  obtain ⟨fed, hfeed, hend⟩ := execSSnoop_cases hexec
  have hb : BuffersOk fed := hfeed ▸ (h.buffers.feedOpt rfl _).feedOpt rfl _
  have hother (b : BufName) (hne : ∀ c, b ≠ .int s.workingSlot c) : SameBuffer s fed b :=
    hfeed ▸ (sameBuffer_feedOpt s _ (hne .up)).trans (sameBuffer_feedOpt _ _ (hne .dn))
  have hup : fed.completeLen (.int s.workingSlot .up) ≠ 0 ↔
      ∃ n, (s.feedOpt (.int s.workingSlot .up) s.move.up).2 = some (.complete n) := by
    rw [hfeed, (sameBuffer_feedOpt _ s.move.dn (by simp)).completeLen]
    exact feedOpt_completeLen_ne_zero_iff s _ _ h.pairs.working_up
  obtain ⟨m, c, e, o, honly⟩ := snoop_fed_only s s.workingSlot
  have hregs := hfeed.trans honly
  have hr : ResponsesOk fed :=
    h.responses.of_same (by rw [hregs]) (by rw [hregs]) fun i => hother _ (by simp)
  rcases hend with ⟨n, hn, hend⟩ | ⟨hnone, rfl⟩
  · rcases hend with ⟨-, rfl⟩ | ⟨hroom, u, hu, rfl⟩
    · have hdropped (b : BufName) (hne : ∀ c, b ≠ .int s.workingSlot c) :
          SameBuffer s (fed.dropPair s.workingSlot) b :=
        (hother b hne).trans <| (SameBuffer.of_eq (t := fed.raise .bpInt) rfl rfl b).trans <|
          (sameBuffer_faClear _ (hne .up)).trans (sameBuffer_faClear _ (hne .dn))
      have hraised : BuffersOk (fed.raise .bpInt) := hb.of_eq rfl rfl
      have hzero : (fed.dropPair s.workingSlot).completeLen (.int s.workingSlot .up) = 0 := by
        simp [dropPair_eq, Cursors.idle]
      obtain rfl := hregs
      exact h.of_snoop hs ((hraised.faClear _).faClear _)
        (h.responses.of_same rfl rfl fun i => hdropped _ (by simp))
        (h.pairs.of_working rfl rfl hzero fun i c hne => hdropped _ (by simp [hne]))
        (hdropped _ (by simp)) ⟨_, _, _, _, _, _, rfl⟩
    · obtain ⟨v, hkeeps, rfl⟩ := publishPair_keepsResponses hb hr hu
      have hpublished (b : BufName) (hrsp : ∀ i, b ≠ .rsp i) : SameBuffer fed (v.bumpWrite .int) b :=
        (hkeeps.others b hrsp).trans (sameBuffer_bumpWrite v .int b)
      have hframe : (v.bumpWrite .int).completeLen (.int s.workingSlot .up) ≠ 0 := by
        rw [(hpublished _ (by simp)).completeLen]
        exact hup.2 ⟨n, hn⟩
      have hpairs (i : Fin Config.nInt) (c : Chan) (hne : i ≠ s.workingSlot) :
          SameBuffer s (v.bumpWrite .int) (.int i c) :=
        (hother _ (by simp [hne])).trans (hpublished _ (by simp))
      have hcap : SameBuffer s (v.bumpWrite .int) .cap :=
        (hother _ (by simp)).trans (hpublished _ (by simp))
      have hresponses : ResponsesOk (v.bumpWrite .int) :=
        hkeeps.responses.of_same rfl rfl fun i => sameBuffer_bumpWrite v .int _
      have hbuffers : BuffersOk (v.bumpWrite .int) := hkeeps.buffers.of_eq rfl rfl
      obtain ⟨m', c', e', r', o', hv⟩ := hkeeps.only
      obtain rfl := hregs
      obtain rfl := hv
      exact h.of_snoop hs hbuffers hresponses (h.pairs.publish hroom rfl rfl hframe hpairs) hcap
        ⟨_, _, _, _, _, _, rfl⟩
  · have hzero : fed.completeLen (.int s.workingSlot .up) = 0 :=
      not_not.1 fun hc => (hup.1 hc).elim hnone
    have hpairs : PairsOk fed :=
      h.pairs.of_working (by rw [hregs]) (by rw [hregs]) hzero fun i c hne => hother _ (by simp [hne])
    exact h.of_snoop hs hb hr hpairs (hother _ (by simp)) ⟨m, c, e, _, _, o, hregs⟩

/-! ## Every step -/

/-- Every ENGINE step, in its state, keeps the parts. -/
theorem InvParts.exec_engine {e : EngineState} {s t : State} (h : InvParts s) (hs : s.fsm = e.code)
    (hexec : exec e.instr s = .next t) : InvParts t := by
  cases e with
  | snoop => exact h.execSSnoop hs hexec
  | eval => exact h.execSEval hs hexec
  | guard => exact h.execSGuard hs hexec
  | validate => exact h.execSValidate hs hexec
  | tx => exact h.execSTx hs hexec
  | cap => exact h.execSCap hs hexec
  | commit => exact h.execSCommit hs hexec
  | abort => exact h.execSAbort hexec

/-- No ENGINE step places an FA9 word: the word is presented from outside (R80). -/
theorem exec_engine_faWord {e : EngineState} {s t : State} (hexec : exec e.instr s = .next t) :
    t.faWord = s.faWord := by
  cases e with
  | snoop =>
    obtain ⟨m, c, e, n, r, o, rfl, -, -⟩ := execSSnoop_only hexec
    rfl
  | eval => rcases execSEval_cases hexec with ⟨-, rfl⟩ | ⟨-, rfl⟩ <;> rfl
  | guard => rcases execSGuard_cases hexec with ⟨-, rfl⟩ | ⟨-, -, rfl⟩ | ⟨-, -, rfl⟩ <;> rfl
  | validate => obtain ⟨-, ⟨-, rfl⟩ | ⟨-, rfl⟩⟩ := execSValidate_cases hexec <;> rfl
  | tx => rcases execSTx_cases hexec with ⟨-, rfl⟩ | ⟨-, -, -, ⟨-, rfl⟩ | ⟨-, rfl⟩⟩ <;> rfl
  | cap =>
    obtain ⟨m, c, e, f, x, o, rfl⟩ := execSCap_only hexec
    rfl
  | commit =>
    obtain ⟨m, c, e, r, o, rfl, -⟩ := execSCommit_only hexec
    rfl
  | abort =>
    obtain rfl := execSAbort_next hexec
    rfl

/-- Every ENGINE step keeps the invariant: ERR and CFG by who writes them, the rest by its parts. -/
theorem inv_exec_engine {e : EngineState} {s t : State} (h : Inv s) (hs : s.fsm = e.code)
    (hexec : exec e.instr s = .next t) : Inv t := by
  obtain ⟨hfa, hres, hparts⟩ := (inv_iff s).1 h
  have herr : ErrKept s t := errBitsAreSticky _ s t (by cases e <;> nofun) hexec
  have hcfg : t.cfg = s.cfg :=
    (registersHaveTheirWriters _ s t hexec).1.resolve_right (by rintro ⟨sel, data, hi⟩; cases e <;> cases hi)
  exact (inv_iff t).2
    ⟨(exec_engine_faWord hexec).trans hfa, reservedZero_of_errKept hres herr hcfg, hparts.exec_engine hs hexec⟩

/-- Settles O57: the agent that moves is ENGINE in its state, HOST with a command or a reserved word, or
TIMER; no FA9 word is placed. -/
theorem stepKeepsTheInvariant : Obligations.StepKeepsTheInvariant := by
  unfold Obligations.StepKeepsTheInvariant
  intro s t h hstep
  have hbegin : Inv s.beginStep := h.of_untracked _ _ _ _ _ _ _ _
  have hend {u : State} (hu : Inv u) : Inv u.endStep := hu.of_untracked _ _ _ _ _ _ _ _
  rcases step_cases hstep with ⟨i, u, hfetch, hexec, rfl⟩ | ⟨i, u, hfetch, -, -⟩ | ⟨-, rfl⟩ | ⟨e, -, rfl⟩ | ⟨-, rfl⟩
  · refine hend ?_
    obtain ⟨-, ⟨-, hdecode⟩ | ⟨w, -, -, hdecode⟩⟩ := fetch_run hfetch
    · obtain ⟨e, hcode, rfl⟩ := decodeFsm4_eq_instr hdecode
      exact inv_exec_engine hbegin hcode hexec
    · exact inv_exec_host (decodeCmd32_format hdecode) hbegin hexec
  · obtain ⟨w, hword, -⟩ := fetch_runFa hfetch
    exact absurd (h.faWord.symm.trans hword) (by simp)
  · exact hend (hbegin.of_untracked _ _ _ _ _ _ _ _)
  · exact hend (hbegin.of_untracked _ _ _ _ _ _ _ _)
  · exact hend hbegin

end Sys2Proof.Machine
end

section
/-! PROOFS. Storage and who may write it: HOST keeps to the buffers it owns, every step keeps storage
canonical, and a cursor beyond the capacity stops the step that reads through it (20_memory.md R50, R52, R61;
44_host_port.md R206). -/

namespace Sys2Proof.Machine

/-! ## The queues' ends, in the index counters (R111, R112) -/

theorem intHead_eq (s : State) (c : Chan) : s.intHead c = .int (Fin.ofNat 2 s.intR.toNat) c :=
  congrArg (BufName.int · c) (Fin.ext (slotOf_nInt s.intR))

theorem rspHead_eq (s : State) : s.rspHead = .rsp (Fin.ofNat 4 s.rspR.toNat) :=
  congrArg BufName.rsp (Fin.ext (slotOf_nRsp s.rspR))

theorem qEmpty_eq_false_iff (s : State) (q : Queue) : s.qEmpty q = false ↔ s.count q ≠ 0 :=
  beq_eq_false_iff_ne

theorem qFull_req_eq_false_iff (s : State) : s.qFull .req = false ↔ s.reqW - s.reqR ≠ 1 :=
  decide_eq_false_iff_not.trans (not_congr (BitVec.toNat_inj (y := 1#32)))

theorem qFull_rsp_eq_false_iff (s : State) : s.qFull .rsp = false ↔ s.rspW - s.rspR ≠ 4 :=
  decide_eq_false_iff_not.trans (not_congr (BitVec.toNat_inj (y := 4#32)))

/-! ## The buffers HOST owns (R61, R206) -/

/-- A buffer HOST may write: a buffer of the head pair or the head response, while there is one, and the
request being built, while the request queue has a free slot. -/
inductive HostOwns (s : State) : BufName → Prop
  | headPair (c : Chan) (hsome : s.count .int ≠ 0) : HostOwns s (s.intHead c)
  | headResponse (hsome : s.count .rsp ≠ 0) : HostOwns s s.rspHead
  | freeRequest (hfree : s.qFull .req = false) : HostOwns s s.reqTail

theorem sameBuffer_qRelease_int (s : State) {b : BufName} (hne : ∀ c, b ≠ s.intHead c) :
    SameBuffer s (s.qRelease .int) b :=
  ((sameBuffer_faClear s (hne .up)).trans (sameBuffer_faClear _ (hne .dn))).trans (sameBuffer_bumpRead _ .int b)

theorem sameBuffer_qRelease_rsp (s : State) {b : BufName} (hne : b ≠ s.rspHead) :
    SameBuffer s (s.qRelease .rsp) b :=
  (sameBuffer_faClear s hne).trans (sameBuffer_bumpRead _ .rsp b)

theorem HostEffect.sameBuffer {i : Instr} {s u : State} {b : BufName} (he : HostEffect s i u)
    (hb : ¬ HostOwns s b) : SameBuffer s u b := by
  cases he with
  | nothing | writeCfg | clearErr | refusePublish => exact .of_eq rfl rfl b
  | publish => exact sameBuffer_bumpWrite s .req b
  | writeByte idx data hidx hfree =>
    have hne : b ≠ s.reqTail := fun e => hb (e ▸ .freeRequest hfree)
    exact sameBuffer_putByte s data (Nat.lt_succ_of_le hidx) hne
  | setLen data _ hfree =>
    have hne : b ≠ s.reqTail := fun e => hb (e ▸ .freeRequest hfree)
    exact sameBuffer_setCursors s _ hne
  | releasePair hsome =>
    exact sameBuffer_qRelease_int s fun c e => hb (e ▸ .headPair c ((qEmpty_eq_false_iff s .int).1 hsome))
  | releaseResponse hsome =>
    exact sameBuffer_qRelease_rsp s fun e => hb (e ▸ .headResponse ((qEmpty_eq_false_iff s .rsp).1 hsome))

/-- Settles O14: each effect of a host command writes a buffer HOST owns, or none. -/
theorem hostCommandsKeepToOwnedBuffers : Obligations.HostCommandsKeepToOwnedBuffers := by
  unfold Obligations.HostCommandsKeepToOwnedBuffers
  intro i s t b hi hexec hpair hresponse hrequest
  have hb : ¬ HostOwns s b := by
    rintro (⟨c, hsome⟩ | hsome | hfree)
    · exact hpair c hsome (intHead_eq s c)
    · exact hresponse hsome (rspHead_eq s)
    · exact hrequest ((qFull_req_eq_false_iff s).1 hfree) (reqTail_eq s)
  obtain ⟨u, fresh, result, he, rfl⟩ := exec_host_effect hi hexec
  exact (he.sameBuffer hb).trans (.of_eq rfl rfl b)

/-! ## Canonical storage (R50, R52) -/

theorem qRelease_mem (s : State) (q : Queue) : (s.qRelease q).mem = s.mem := by
  obtain ⟨c, h⟩ := qRelease_only s q
  rw [h, bumpRead_mem]

theorem capDeadline_mem (s : State) : s.capDeadline.mem = s.mem := by
  obtain ⟨e, f, o, h⟩ := capDeadline_only s
  rw [h]

theorem HostEffect.wf {i : Instr} {s u : State} (he : HostEffect s i u) (h : s.mem.wf = true) :
    u.mem.wf = true := by
  cases he with
  | nothing | writeCfg | clearErr | setLen | refusePublish | publish => exact h
  | writeByte idx data hidx => exact putByte_wf s.reqTail data (Nat.lt_succ_of_le hidx) h
  | releasePair | releaseResponse => rwa [qRelease_mem]

theorem publishPair_wf {s t : State} {w : Fin Config.nInt} (hp : s.publishPair w = .ok t)
    (h : s.mem.wf = true) : t.mem.wf = true := by
  rcases publishPair_cases hp with ⟨-, rfl⟩ | ⟨-, u, hu, rfl⟩
  · exact h
  · have hu_wf : u.mem.wf = true := mirror_wf hu h
    simpa using hu_wf

theorem execSSnoop_wf {s t : State} (hexec : execSSnoop s = .next t) (h : s.mem.wf = true) :
    t.mem.wf = true := by
  obtain ⟨fed, hfed, hend⟩ := execSSnoop_cases hexec
  have hwf : fed.mem.wf = true := hfed ▸ feedOpt_wf _ _ _ (feedOpt_wf _ _ _ h)
  obtain ⟨-, -, ⟨-, rfl⟩ | ⟨-, u, hu, rfl⟩⟩ | ⟨-, rfl⟩ := hend
  · exact hwf
  · have hu_wf : u.mem.wf = true := publishPair_wf hu hwf
    exact hu_wf
  · exact hwf

theorem execSCap_wf {s t : State} (hexec : execSCap s = .next t) (h : s.mem.wf = true) : t.mem.wf = true := by
  obtain ⟨-, rfl⟩ | ⟨x, rest, -, ⟨-, -, rfl⟩ | ⟨-, ⟨-, -, rfl⟩ | ⟨-, rfl⟩⟩⟩ := execSCap_cases hexec
  · rwa [capDeadline_mem]
  · rwa [capDeadline_mem]
  · exact feed_wf _ .cap x h
  · rw [capDeadline_mem]
    exact feed_wf _ .cap x h

/-- Every operation keeps storage canonical: it writes storage by MemWrite below the capacity alone. -/
theorem exec_wf {i : Instr} {s t : State} (hexec : exec i s = .next t) (h : s.mem.wf = true) :
    t.mem.wf = true := by
  cases i with
  | sSnoop => exact execSSnoop_wf hexec h
  | sEval => rcases execSEval_cases hexec with ⟨-, rfl⟩ | ⟨-, rfl⟩ <;> exact h
  | sGuard => rcases execSGuard_cases hexec with ⟨-, rfl⟩ | ⟨-, -, rfl⟩ | ⟨-, -, rfl⟩ <;> exact h
  | sValidate => obtain ⟨-, ⟨-, rfl⟩ | ⟨-, rfl⟩⟩ := execSValidate_cases hexec <;> exact h
  | sTx => rcases execSTx_cases hexec with ⟨-, rfl⟩ | ⟨-, -, -, ⟨-, rfl⟩ | ⟨-, rfl⟩⟩ <;> exact h
  | sCap => exact execSCap_wf hexec h
  | sCommit =>
    obtain ⟨u, hu, rfl⟩ := execSCommit_cases hexec
    have hu_wf : u.mem.wf = true := rspPush_wf hu h
    simpa [qRelease_mem] using hu_wf
  | sAbort =>
    obtain rfl := execSAbort_next hexec
    exact h
  | faAppend x =>
    obtain rfl := Host.Outcome.next.inj hexec
    exact faAppend_wf s s.faBuf x h
  | faClear =>
    obtain rfl := Host.Outcome.next.inj hexec
    exact h
  | _ =>
    obtain ⟨u, fresh, result, he, rfl⟩ := exec_host_effect rfl hexec
    exact he.wf h

/-- Settles O55: only an operation writes storage, and every operation keeps it canonical. -/
theorem stepKeepsStorageCanonical : Obligations.StepKeepsStorageCanonical := by
  unfold Obligations.StepKeepsStorageCanonical
  intro s t h hstep
  rcases step_cases hstep with ⟨i, u, -, hexec, rfl⟩ | ⟨i, u, -, hexec, rfl⟩ | ⟨-, rfl⟩ | ⟨e, -, rfl⟩ | ⟨-, rfl⟩
  · have hu_wf : u.mem.wf = true := exec_wf hexec h
    exact hu_wf
  · have hu_wf : u.mem.wf = true := exec_wf hexec h
    exact hu_wf
  all_goals exact h

/-! ## A cursor beyond the capacity (R52) -/

theorem lenInCapacity_eq_false {s : State} {b : BufName} (h : Config.capacity < (s.completeLen b).toNat) :
    s.lenInCapacity b = false :=
  decide_eq_false (Nat.not_le_of_lt h)

theorem execSValidate_eq_fault {s : State} (h : Config.capacity < (s.completeLen s.reqHead).toNat) :
    execSValidate s = .fault .noSuchByte := by
  simp [execSValidate, lenInCapacity_eq_false h]

theorem execSTx_eq_fault {s : State} {lb : Byte} (hclock : s.move.clock = some lb)
    (h : Config.capacity ≤ s.txi.toNat) : execSTx s = .fault .noSuchByte := by
  simp [execSTx, hclock, Nat.not_lt_of_le h]

theorem rspPush_eq_error {s : State} {src : BufName} (hroom : s.qFull .rsp = false)
    (h : Config.capacity < (s.completeLen src).toNat) : s.rspPush src = .error .noSuchByte := by
  simp [State.rspPush, hroom, lenInCapacity_eq_false h]

theorem execSCommit_eq_fault {s : State} (hroom : s.qFull .rsp = false)
    (h : Config.capacity < (s.completeLen .cap).toNat) : execSCommit s = .fault .noSuchByte := by
  have hpush : ({ s with arb := false, attnN := true } : State).rspPush .cap = .error .noSuchByte :=
    rspPush_eq_error hroom h
  simp [execSCommit, hpush]

/-- Settles O39: each of the three steps tests its cursor before it reads through it. -/
theorem cursorBeyondCapacityStops : Obligations.CursorBeyondCapacityStops := by
  unfold Obligations.CursorBeyondCapacityStops
  intro s
  refine ⟨fun hlen => ?_, fun lb hclock htxi => ?_, fun hlen hroom => ?_⟩
  · rw [← reqHead_eq s] at hlen
    exact execSValidate_eq_fault hlen
  · exact execSTx_eq_fault hclock htxi
  · exact execSCommit_eq_fault ((qFull_rsp_eq_false_iff s).2 hroom) hlen

end Sys2Proof.Machine
end

section
/-! PROOFS. The decoder and the encoder agree, the decoder reads the fields a command uses and no others, and
the field ranges come before every other test of a command (30_encoding.md R71 to R75, R77 to R83;
44_host_port.md R190, R205; 92_eei_decisions.md D30). -/

namespace Sys2Proof

/-! ## Decode and encode (R71, R78, R80, R83) -/

/-- The byte of an FA_APPEND word is below `fop`, which is 0 (R80). -/
theorem decodeFa9_append (byte : Byte) : decodeFa9 (0#1 ++ byte) = .faAppend byte := by
  have hfop : (0#1 ++ byte).getLsbD 8 = false := by
    rw [BitVec.getLsbD_append]
    rfl
  have hbyte : (0#1 ++ byte).extractLsb' 0 8 = byte := by
    ext i hi
    simp only [BitVec.getElem_extractLsb', BitVec.getLsbD_append]
    simp [hi]
  simp only [decodeFa9, hfop, hbyte, Bool.false_eq_true, if_false]

/-- Each host command is read back from its word: `op` selects its row of R73, and the row's fields are the
ones the word was made of (`selOf_enc`, `idxOf_enc`, `dataOf_enc`). -/
theorem decode_encode_of_cmd32 {i : Instr} (hi : i.format = .cmd32) : decode (encode i) = .ok i := by
  cases i with
  | nop | errClear | reqPublish | intRelease | rspLen | rspRelease =>
    simp only [encode, decode, decodeCmd32, opOf_enc]
    rfl
  | rdreg | wrreg | qcount | reqWrite | reqSetlen | intRead | intLen | rspRead =>
    simp only [encode, decode, decodeCmd32, opOf_enc, selOf_enc, idxOf_enc, dataOf_enc]
    rfl
  | sSnoop | sEval | sGuard | sValidate | sTx | sCap | sCommit | sAbort | faAppend _ | faClear => cases hi

/-- Settles O53: the host commands by their fields, the ENGINE steps by their codes, FA_APPEND by its byte. -/
theorem decodeOfEncodeIsIdentity : Obligations.DecodeOfEncodeIsIdentity := by
  unfold Obligations.DecodeOfEncodeIsIdentity
  intro i
  cases i with
  | sSnoop | sEval | sGuard | sValidate | sTx | sCap | sCommit | sAbort => rfl
  | faAppend byte => exact congrArg Except.ok (decodeFa9_append byte)
  | faClear => rfl
  | _ => exact decode_encode_of_cmd32 rfl

/-- Settles O49: seven of the words are the encodings of their operations; the last is FA_CLEAR's with a byte
it does not use. -/
theorem wordsDecodeAsTheSpecWritesThem : Obligations.WordsDecodeAsTheSpecWritesThem := by
  unfold Obligations.WordsDecodeAsTheSpecWritesThem
  exact ⟨decodeOfEncodeIsIdentity (.rdreg 0x07 0x01), decodeOfEncodeIsIdentity (.wrreg 0x01 0xFF),
    decodeOfEncodeIsIdentity (.reqWrite 0x01 0x42), decodeOfEncodeIsIdentity (.intRead 0x01 0x03),
    decodeOfEncodeIsIdentity .rspLen, decodeOfEncodeIsIdentity .sCap,
    decodeOfEncodeIsIdentity (.faAppend 0xF0), rfl⟩

/-! ## Unused fields (R75) -/

/-- The commands that use `sel` (R73). -/
def UsesSel (op : Byte) : Prop := op = 0x01 ∨ op = 0x02 ∨ op = 0x04 ∨ op = 0x20 ∨ op = 0x21

/-- The commands that use `idx` (R73). -/
def UsesIdx (op : Byte) : Prop := op = 0x01 ∨ op = 0x10 ∨ op = 0x20 ∨ op = 0x30

/-- The commands that use `data` (R73). -/
def UsesData (op : Byte) : Prop := op = 0x02 ∨ op = 0x10 ∨ op = 0x11

/-- The decoder depends on `op` and on the fields that the command of that `op` uses, and on nothing else. -/
theorem decodeCmd32_congr {w v : Word} (hop : opOf v = opOf w) (hsel : UsesSel (opOf w) → selOf v = selOf w)
    (hidx : UsesIdx (opOf w) → idxOf v = idxOf w) (hdata : UsesData (opOf w) → dataOf v = dataOf w) :
    decodeCmd32 v = decodeCmd32 w := by
  have op_eq {n : Byte} (h : (opOf w).toNat = n.toNat) : opOf w = n := BitVec.eq_of_toNat_eq h
  simp only [decodeCmd32, hop]
  split
  case h_2 h => -- RDREG
    have op_rdreg := op_eq (n := 0x01) h
    rw [hsel (by simp [UsesSel, op_rdreg]), hidx (by simp [UsesIdx, op_rdreg])]
  case h_3 h => -- WRREG
    have op_wrreg := op_eq (n := 0x02) h
    rw [hsel (by simp [UsesSel, op_wrreg]), hdata (by simp [UsesData, op_wrreg])]
  case h_5 h => -- QCOUNT
    rw [hsel (by simp [UsesSel, op_eq (n := 0x04) h])]
  case h_6 h => -- REQ_WRITE
    have op_reqWrite := op_eq (n := 0x10) h
    rw [hidx (by simp [UsesIdx, op_reqWrite]), hdata (by simp [UsesData, op_reqWrite])]
  case h_7 h => -- REQ_SETLEN
    rw [hdata (by simp [UsesData, op_eq (n := 0x11) h])]
  case h_9 h => -- INT_READ
    have op_intRead := op_eq (n := 0x20) h
    rw [hsel (by simp [UsesSel, op_intRead]), hidx (by simp [UsesIdx, op_intRead])]
  case h_10 h => -- INT_LEN
    rw [hsel (by simp [UsesSel, op_eq (n := 0x21) h])]
  case h_12 h => -- RSP_READ
    rw [hidx (by simp [UsesIdx, op_eq (n := 0x30) h])]
  all_goals rfl

/-- Settles O54: the fields of an encoded word are the ones it was made of, so `decodeCmd32_congr` applies. -/
theorem unusedFieldsAreIgnored : Obligations.UnusedFieldsAreIgnored := by
  unfold Obligations.UnusedFieldsAreIgnored
  intro op sel idx data sel' idx' data' hsel hidx hdata
  exact decodeCmd32_congr (by simp) (by simpa [UsesSel] using hsel) (by simpa [UsesIdx] using hidx)
    (by simpa [UsesData] using hdata)

/-! ## Reserved opcodes (R74) -/

/-- The values of `op` that R73 does not list (R74). -/
def ReservedOp (op : Byte) : Prop :=
  0x05 ≤ op.toNat ∧ op.toNat ≤ 0x0F ∨ 0x13 ≤ op.toNat ∧ op.toNat ≤ 0x1F ∨
    0x23 ≤ op.toNat ∧ op.toNat ≤ 0x2F ∨ 0x33 ≤ op.toNat

theorem decodeCmd32_reserved {w : Word} (h : ReservedOp (opOf w)) : decodeCmd32 w = .error .reservedOpcode := by
  unfold ReservedOp at h
  unfold decodeCmd32
  split
  case h_15 => rfl
  all_goals omega

end Sys2Proof

namespace Sys2Proof.Machine

/-- Settles O50: the decoder refuses the word, and HOST's enabled step answers ILLEGAL to a refused word. -/
theorem reservedOpcodesReturnIllegal : Obligations.ReservedOpcodesReturnIllegal := by
  unfold Obligations.ReservedOpcodesReturnIllegal
  intro s w hop
  have hdecode : decodeCmd32 w = .error .reservedOpcode := decodeCmd32_reserved hop
  exact ⟨hdecode, fun hfa ht he => step_host_illegal hfa ht ((hostEnabled_iff s).mpr he.symm) hdecode⟩

/-! ## Fields outside their ranges (R72, R77, D30) -/

theorem regOfSel_eq_none {sel : Byte} (h : 0x08 < sel.toNat) : regOfSel sel = none := by
  unfold regOfSel
  split
  case h_10 => rfl
  all_goals omega

theorem queueOfSel_eq_none {sel : Byte} (h : 0x02 < sel.toNat) : queueOfSel sel = none := by
  unfold queueOfSel
  split
  case h_4 => rfl
  all_goals omega

theorem chanOfSel_eq_none {sel : Byte} (h : 0x01 < sel.toNat) : chanOfSel sel = none := by
  unfold chanOfSel
  split
  case h_3 => rfl
  all_goals omega

theorem execRdreg_range {sel idx : Byte} (s : State) (h : 0x08 < sel.toNat ∨ 3 < idx.toNat) :
    execRdreg sel idx s = s.hostRefuse .range := by
  obtain hsel | hidx := h
  · simp only [execRdreg, regOfSel_eq_none hsel]
  · simp only [execRdreg, if_neg (Nat.not_le_of_lt hidx)]
    split <;> rfl

theorem execWrreg_range {sel : Byte} (data : Byte) (s : State) (h : 0x08 < sel.toNat) :
    execWrreg sel data s = s.hostRefuse .range := by
  simp only [execWrreg, regOfSel_eq_none h]

theorem execQcount_range {sel : Byte} (s : State) (h : 0x02 < sel.toNat) :
    execQcount sel s = s.hostRefuse .range := by
  simp only [execQcount, queueOfSel_eq_none h]

theorem execReqWrite_range {idx : Byte} (data : Byte) (s : State) (h : 127 < idx.toNat) :
    execReqWrite idx data s = s.hostRefuse .range :=
  if_neg (Nat.not_le_of_lt h)

theorem execReqSetlen_range {data : Byte} (s : State) (h : 128 < data.toNat) :
    execReqSetlen data s = s.hostRefuse .range :=
  if_neg (Nat.not_le_of_lt h)

theorem execIntRead_range {sel idx : Byte} (s : State) (h : 0x01 < sel.toNat ∨ 127 < idx.toNat) :
    execIntRead sel idx s = s.hostRefuse .range := by
  obtain hsel | hidx := h
  · simp only [execIntRead, chanOfSel_eq_none hsel]
  · simp only [execIntRead, if_neg (Nat.not_le_of_lt hidx)]
    split <;> rfl

theorem execIntLen_range {sel : Byte} (s : State) (h : 0x01 < sel.toNat) :
    execIntLen sel s = s.hostRefuse .range := by
  simp only [execIntLen, chanOfSel_eq_none h]

theorem execRspRead_range {idx : Byte} (s : State) (h : 127 < idx.toNat) :
    execRspRead idx s = s.hostRefuse .range :=
  if_neg (Nat.not_le_of_lt h)

/-- Settles O12: each command with a ranged field tests it before it looks at a queue; the others have no
field outside a range. -/
theorem outOfRangeFieldHasNoEffect : Obligations.OutOfRangeFieldHasNoEffect := by
  unfold Obligations.OutOfRangeFieldHasNoEffect
  intro i s h
  cases i with
  | rdreg sel idx => exact execRdreg_range s (by simpa [Instr.inRange, or_iff_not_imp_left] using h)
  | wrreg sel data => exact execWrreg_range data s (by simpa [Instr.inRange] using h)
  | qcount sel => exact execQcount_range s (by simpa [Instr.inRange] using h)
  | reqWrite idx data => exact execReqWrite_range data s (by simpa [Instr.inRange] using h)
  | reqSetlen data => exact execReqSetlen_range s (by simpa [Instr.inRange] using h)
  | intRead sel idx => exact execIntRead_range s (by simpa [Instr.inRange, or_iff_not_imp_left] using h)
  | intLen sel => exact execIntLen_range s (by simpa [Instr.inRange] using h)
  | rspRead idx => exact execRspRead_range s (by simpa [Instr.inRange] using h)
  | nop | errClear | reqPublish | intRelease | rspLen | rspRelease => cases h
  | sSnoop | sEval | sGuard | sValidate | sTx | sCap | sCommit | sAbort | faAppend _ | faClear => cases h

end Sys2Proof.Machine
end

section
/-! PROOFS. The frame assembler: FA_APPEND by the table of R92, FA_CLEAR, the invariant that both keep, and the
two ends of a run of bytes from idle, a complete frame and an overflow (40_frame_assembler.md R91 to R94;
90_conflicts.md C13). -/

namespace Sys2Proof.Machine

/-! ## One buffer's cursors and bytes -/

theorem cursorsOf_setFillPos_same (s : State) (b : BufName) (p : BitVec 7) :
    (s.setFillPos b p).cursorsOf b = { fillPos := p, completeLen := s.completeLen b } :=
  cursorsOf_setCursors_same s b _

theorem cursorsOf_setFillPos_putByte (s : State) (b : BufName) (i : Nat) (v : Byte) (p : BitVec 7)
    (h : s.completeLen b = 0) :
    ((s.putByte b i v).setFillPos b p).cursorsOf b = { fillPos := p, completeLen := 0 } := by
  rw [cursorsOf_setFillPos_same, putByte_completeLen, h]

theorem byteAt_putByte_of_index_ne (s : State) (b : BufName) {i j : Nat} (v : Byte) (hi : i < Config.capacity)
    (hj : j < Config.capacity) (h : j ≠ i) : (s.putByte b i v).byteAt b j = s.byteAt b j :=
  byteAt_putByte_of_ne s v hi hj fun ⟨_, e⟩ => h e

/-! ## The table (R92) -/

theorem faAppend_out (s : State) (b : BufName) (x : Byte) : (s.faAppend b x).1.out = s.out := by
  obtain ⟨m, c, h⟩ := faAppend_only s b x
  rw [h]

/-- What FA_APPEND leaves unchanged outside storage and cursors, with its own results for these two. -/
theorem faAppend_frame (s : State) (b : BufName) (x : Byte) :
    (s.faAppend b x).1 = { s with mem := (s.faAppend b x).1.mem, cursors := (s.faAppend b x).1.cursors } := by
  obtain ⟨m, c, h⟩ := faAppend_only s b x
  rw [h]

theorem exec_faAppend (s : State) (x : Byte) :
    exec (.faAppend x) s =
      .next { (s.faAppend s.faBuf x).1 with out := { s.out with fa := some (s.faAppend s.faBuf x).2 } } := by
  rw [← faAppend_out s s.faBuf x]
  rfl

/-- Settles O16: the operation answers with FA_APPEND's outcome, and each test of the table leads to its row. -/
theorem faAppendFollowsTheTable : Obligations.FaAppendFollowsTheTable := by
  unfold Obligations.FaAppendFollowsTheTable
  intro s x
  refine ⟨exec_faAppend s x, fun b => ⟨faAppend_frame s b x, fun _ hne => sameBuffer_faAppend s x hne, ?_⟩⟩
  have hpos : (s.fillPos b).toNat < Config.capacity := fillPos_lt s b
  have other_bytes {i : Nat} (v : Byte) (hi : i < Config.capacity) (j : Nat) (hne : j ≠ i) (hj : j < 128) :
      (s.putByte b i v).byteAt b j = s.byteAt b j := byteAt_putByte_of_index_ne s b v hi hj hne
  split
  case isTrue hcomplete =>
    rw [faAppend_complete s b x hcomplete]
    exact ⟨rfl, .refl s b⟩
  case isFalse hcomplete =>
  have hlen : s.completeLen b = 0 := not_not.1 hcomplete
  split
  case isTrue hsof =>
    obtain rfl : x = Config.sof := hsof
    rw [faAppend_sof s b hlen]
    exact ⟨rfl, cursorsOf_setFillPos_putByte s b _ _ _ hlen, byteAt_putByte_same s b 0 _,
      fun j hj => other_bytes _ (by decide) j (Nat.ne_of_gt hj)⟩
  case isFalse hsof =>
  split
  case isTrue hidle =>
    rw [faAppend_idle s b x hlen hidle hsof]
    exact ⟨rfl, .refl s b⟩
  case isFalse hfilling =>
  split
  case isTrue heof =>
    obtain rfl : x = Config.eof := heof
    rw [faAppend_eof s b hlen hfilling]
    refine ⟨rfl, ?_, byteAt_putByte_same s b _ _, other_bytes _ hpos⟩
    rw [cursorsOf_setFillPos_same, setCompleteLen_completeLen, if_pos rfl]
  case isFalse heof =>
  split
  case isTrue hlast =>
    rw [faAppend_last s b x hlen (congrArg BitVec.toNat hlast) hsof heof]
    refine ⟨rfl, ?_, fun _ _ => rfl⟩
    rw [cursorsOf_setFillPos_same, hlen, Cursors.idle]
  case isFalse hlast =>
    have hroom : (s.fillPos b).toNat ≠ 127 := fun e => hlast (BitVec.eq_of_toNat_eq e)
    rw [faAppend_data s b x hlen hfilling hroom hsof heof]
    exact ⟨rfl, cursorsOf_setFillPos_putByte s b _ _ _ hlen, byteAt_putByte_same s b _ _, other_bytes _ hpos⟩

/-- Settles O17: the operation is a write of the buffer's cursors. -/
theorem faClearIdlesTheBuffer : Obligations.FaClearIdlesTheBuffer := by
  unfold Obligations.FaClearIdlesTheBuffer
  intro s
  exact ⟨s.faClear s.faBuf, rfl, rfl, cursorsOf_setCursors_same s s.faBuf _,
    fun _ hne => cursorsOf_setCursors_of_ne s _ hne⟩

/-! ## The buffer invariant (R94) -/

theorem frameOk_of_idle {s : State} {b : BufName} (h : s.idle b = true) : FrameOk s b := by
  obtain ⟨hfill, hlen⟩ := (idle_iff s b).1 h
  exact ⟨fun hc => absurd hlen hc, fun hf => absurd hfill hf⟩

theorem faClear_idle (s : State) (b : BufName) : (s.faClear b).idle b = true := by
  simp [idle_iff]

/-- Settles O18: `frameOk_faAppend` for the buffer acted on, which FA_CLEAR idles; another buffer stays. -/
theorem frameAssemblerKeepsItsInvariant : Obligations.FrameAssemblerKeepsItsInvariant := by
  unfold Obligations.FrameAssemblerKeepsItsInvariant
  intro s b b' x h
  by_cases hb : b' = b
  · subst hb
    exact ⟨frameOk_faAppend x h, frameOk_of_idle (faClear_idle s b')⟩
  · exact ⟨frameOk_of_sameBuffer (sameBuffer_faAppend s x hb) h, frameOk_of_sameBuffer (sameBuffer_faClear s hb) h⟩

/-! ## A buffer that holds the bytes appended so far (R93, R54) -/

theorem isData_iff (x : Byte) : isData x = true ↔ x ≠ Config.sof ∧ x ≠ Config.eof := by
  simp [isData]

theorem appendAll_append (s : State) (b : BufName) (xs ys : List Byte) :
    appendAll s b (xs ++ ys) = appendAll (appendAll s b xs) b ys := by
  induction xs generalizing s with
  | nil => rfl
  | cons x xs ih => exact ih _

/-- The buffer begins with these bytes, in their order. -/
def BeginsWith (s : State) (b : BufName) (bytes : List Byte) : Prop :=
  ∀ j (h : j < bytes.length), s.byteAt b j = bytes[j]

/-- The buffer is filling, and these are the bytes appended to it since it was idle. -/
structure Filling (s : State) (b : BufName) (bytes : List Byte) : Prop where
  ne_nil : bytes ≠ []
  incomplete : s.completeLen b = 0
  pos : (s.fillPos b).toNat = bytes.length
  begins : BeginsWith s b bytes

theorem BeginsWith.putByte {s : State} {b : BufName} {bytes : List Byte} (h : BeginsWith s b bytes) (x : Byte)
    (hlen : bytes.length < Config.capacity) : BeginsWith (s.putByte b bytes.length x) b (bytes ++ [x]) := by
  intro j hj
  rw [List.length_append, List.length_singleton] at hj
  by_cases hend : j = bytes.length
  · subst hend
    rw [byteAt_putByte_same, List.getElem_concat_length rfl]
  · have hbefore : j < bytes.length := by omega
    rw [byteAt_putByte_of_index_ne s b x hlen (hbefore.trans hlen) hend, List.getElem_append_left hbefore, h j hbefore]

theorem Filling.fillPos_ne_zero {s : State} {b : BufName} {bytes : List Byte} (h : Filling s b bytes) :
    s.fillPos b ≠ 0 := by
  intro hzero
  have hlen := h.pos
  rw [hzero] at hlen
  exact h.ne_nil (List.length_eq_zero_iff.1 hlen.symm)

theorem Filling.length_lt {s : State} {b : BufName} {bytes : List Byte} (h : Filling s b bytes) :
    bytes.length < Config.capacity :=
  h.pos ▸ fillPos_lt s b

/-- A start marker starts a frame (R92). -/
theorem filling_sof {s : State} {b : BufName} (h : s.completeLen b = 0) :
    Filling (s.faAppend b Config.sof).1 b [Config.sof] := by
  rw [faAppend_sof s b h]
  refine ⟨List.cons_ne_nil _ _, by simpa using h, by simp, fun j hj => ?_⟩
  obtain rfl : j = 0 := Nat.lt_one_iff.1 hj
  exact byteAt_putByte_same s b 0 _

/-- A byte that is no marker joins a frame below position 127 (R92). -/
theorem Filling.data {s : State} {b : BufName} {bytes : List Byte} (h : Filling s b bytes) {x : Byte}
    (hx : isData x = true) (hroom : bytes.length < 127) : Filling (s.faAppend b x).1 b (bytes ++ [x]) := by
  obtain ⟨hsof, heof⟩ := (isData_iff x).1 hx
  have hpos := h.pos
  rw [faAppend_data s b x h.incomplete h.fillPos_ne_zero (by omega) hsof heof, hpos]
  refine ⟨by simp, by simpa using h.incomplete, ?_, h.begins.putByte x h.length_lt⟩
  rw [setFillPos_fillPos, if_pos rfl, List.length_append, List.length_singleton]
  bv_omega

/-- A run of bytes that are no markers joins a frame, up to 127 bytes in all (R93). -/
theorem Filling.appendAll {b : BufName} {more : List Byte} (hmore : ∀ x ∈ more, isData x = true) {s : State}
    {bytes : List Byte} (h : Filling s b bytes) (hroom : bytes.length + more.length ≤ 127) :
    Filling (appendAll s b more) b (bytes ++ more) := by
  induction more generalizing s bytes with
  | nil => rwa [List.append_nil]
  | cons x more ih =>
    obtain ⟨hx, hmore⟩ := List.forall_mem_cons.1 hmore
    rw [List.length_cons] at hroom
    have hnext : Filling (s.faAppend b x).1 b (bytes ++ [x]) := h.data hx (by omega)
    have hrest := ih hmore hnext (by rw [List.length_append, List.length_singleton]; omega)
    rwa [List.append_assoc, List.singleton_append] at hrest

/-- From idle, a start marker and up to 126 bytes that are no markers are the bytes of a frame begun (R93). -/
theorem filling_of_idle {s : State} {b : BufName} (hidle : s.idle b = true) {bytes : List Byte}
    (hdata : ∀ x ∈ bytes, isData x = true) (hlen : bytes.length ≤ 126) :
    Filling (appendAll s b (Config.sof :: bytes)) b (Config.sof :: bytes) :=
  (filling_sof ((idle_iff s b).1 hidle).2).appendAll hdata (by rw [List.length_singleton]; omega)

/-! ## The end marker completes the frame (R92, R93) -/

theorem Filling.eof_completeLen {s : State} {b : BufName} {bytes : List Byte} (h : Filling s b bytes) :
    ((s.faAppend b Config.eof).1.completeLen b).toNat = bytes.length + 1 := by
  have hpos := h.pos
  rw [faAppend_eof s b h.incomplete h.fillPos_ne_zero, setFillPos_completeLen, setCompleteLen_completeLen, if_pos rfl]
  bv_omega

theorem Filling.eof_fillPos {s : State} {b : BufName} {bytes : List Byte} (h : Filling s b bytes) :
    (s.faAppend b Config.eof).1.fillPos b = 0 := by
  rw [faAppend_eof s b h.incomplete h.fillPos_ne_zero, setFillPos_fillPos, if_pos rfl]

theorem Filling.eof_beginsWith {s : State} {b : BufName} {bytes : List Byte} (h : Filling s b bytes) :
    BeginsWith (s.faAppend b Config.eof).1 b (bytes ++ [Config.eof]) := by
  rw [faAppend_eof s b h.incomplete h.fillPos_ne_zero, h.pos]
  exact h.begins.putByte Config.eof h.length_lt

/-- Settles O19: after the start marker and the run the buffer is filling with them, and the end marker
completes it. -/
theorem markedSequenceCompletesOneFrame : Obligations.MarkedSequenceCompletesOneFrame := by
  unfold Obligations.MarkedSequenceCompletesOneFrame
  intro s b bytes hidle hlen hdata frame t
  have hfilling : Filling (appendAll s b (Config.sof :: bytes)) b (Config.sof :: bytes) :=
    filling_of_idle hidle hdata hlen
  have ht : t = ((appendAll s b (Config.sof :: bytes)).faAppend b Config.eof).1 :=
    appendAll_append s b (Config.sof :: bytes) [Config.eof]
  rw [ht]
  refine ⟨?_, hfilling.eof_fillPos, hfilling.eof_beginsWith⟩
  simpa [frame] using hfilling.eof_completeLen

/-! ## The 128th byte overflows (R92, R93, C13) -/

/-- A byte that is no marker overflows a frame of 127 bytes and leaves the buffer idle. -/
theorem Filling.overflow {s : State} {b : BufName} {bytes : List Byte} (h : Filling s b bytes)
    (hfull : bytes.length = 127) {x : Byte} (hx : isData x = true) :
    (s.faAppend b x).2 = .overflow ∧ (s.faAppend b x).1.idle b = true := by
  obtain ⟨hsof, heof⟩ := (isData_iff x).1 hx
  rw [faAppend_last s b x h.incomplete (h.pos.trans hfull) hsof heof]
  exact ⟨rfl, (idle_iff _ b).2 ⟨by simp, by simpa using h.incomplete⟩⟩

/-- An idle buffer ignores bytes that are no markers (R92). -/
theorem appendAll_eq_self_of_idle {s : State} {b : BufName} (hidle : s.idle b = true) {bytes : List Byte}
    (hdata : ∀ x ∈ bytes, isData x = true) : appendAll s b bytes = s := by
  obtain ⟨hfill, hlen⟩ := (idle_iff s b).1 hidle
  induction bytes with
  | nil => rfl
  | cons x bytes ih =>
    obtain ⟨hx, hdata⟩ := List.forall_mem_cons.1 hdata
    rw [appendAll, faAppend_idle s b x hlen hfill ((isData_iff x).1 hx).1]
    exact ih hdata

/-- Settles O20: the start marker and 126 bytes fill the buffer to 127, the next byte overflows it, and the idle
buffer ignores the rest. -/
theorem unterminatedSequenceOverflows : Obligations.UnterminatedSequenceOverflows := by
  unfold Obligations.UnterminatedSequenceOverflows
  intro s b first rest x hidle hlen hfirst hx hrest
  have hfilling : Filling (appendAll s b (Config.sof :: first)) b (Config.sof :: first) :=
    filling_of_idle hidle hfirst (Nat.le_of_eq hlen)
  obtain ⟨houtcome, hidle'⟩ := hfilling.overflow (congrArg (· + 1) hlen) hx
  refine ⟨houtcome, ?_⟩
  have hsplit : appendAll s b (Config.sof :: (first ++ x :: rest)) =
      appendAll ((appendAll s b (Config.sof :: first)).faAppend b x).1 b rest :=
    appendAll_append s b (Config.sof :: first) (x :: rest)
  have hfinal := appendAll_eq_self_of_idle hidle' hrest
  exact (congrArg (State.idle · b) (hsplit.trans hfinal)).trans hidle'

end Sys2Proof.Machine
end

section
/-! PROOFS. The queue primitives: the slot that a counter names, the count after a publish and after a release,
and the copy that a push places in the response queue (41_spsc_queue.md R111, R112, R115, R116, R120, R121). -/

namespace Sys2Proof.Machine

/-! ## Slots (R111) -/

theorem slotOf_nReq (i : Counter) : (slotOf Config.nReq i).val = i.toNat % 1 := by
  rw [Nat.mod_one, Fin.val_eq_zero]

/-- Settles O21: each depth is a power of two, so its mask keeps the remainder, queue by queue. -/
theorem slotMaskIsModulo : Obligations.SlotMaskIsModulo := by
  unfold Obligations.SlotMaskIsModulo
  exact fun i => ⟨slotOf_nInt i, slotOf_nReq i, slotOf_nRsp i⟩

theorem rspTail_eq (s : State) : s.rspTail = .rsp (Fin.ofNat 4 s.rspW.toNat) :=
  congrArg BufName.rsp (Fin.ext (slotOf_nRsp s.rspW))

/-! ## Counts (R112, R121) -/

theorem bumpWrite_count (s : State) (q q' : Queue) :
    (s.bumpWrite q).count q' = if q' = q then s.count q' + 1 else s.count q' := by
  rw [State.count, State.count, bumpWrite_writeIdx, bumpWrite_readIdx]
  split
  · exact add_sub_right_comm _ _ _
  · rfl

theorem bumpRead_count (s : State) (q q' : Queue) :
    (s.bumpRead q).count q' = if q' = q then s.count q' - 1 else s.count q' := by
  rw [State.count, State.count, bumpRead_writeIdx, bumpRead_readIdx]
  split
  · exact sub_add_eq_sub_sub _ _ _
  · rfl

@[simp] theorem clearHead_count (s : State) (q q' : Queue) : (s.clearHead q).count q' = s.count q' := by
  obtain ⟨c, h⟩ := clearHead_only s q
  rw [h]
  rfl

/-- Settles O22: each moves one counter of its queue by one, in the arithmetic modulo 2^32 that a count is
taken in, so a wrap is no case of its own. -/
theorem countSurvivesWraparound : Obligations.CountSurvivesWraparound := by
  unfold Obligations.CountSurvivesWraparound
  intro s q q'
  constructor
  · rw [qPublish_eq, bumpWrite_count]
  · rw [qRelease_eq, bumpRead_count, clearHead_count]

/-! ## A push with a free slot (R120) -/

section Push

variable {s t : State} {src : BufName}

/-- With a free slot a push publishes the write slot, with the source's bytes copied and its length. -/
theorem rspPush_of_room (hroom : s.qFull .rsp = false) (h : s.rspPush src = .ok t) :
    t = ((s.copyBytes src s.rspTail (s.completeLen src).toNat).setCursors s.rspTail
      { fillPos := 0, completeLen := s.completeLen src }).bumpWrite .rsp := by
  rcases rspPush_cases h with ⟨hfull, -⟩ | ⟨-, -, ht⟩
  · rw [hroom] at hfull
    cases hfull
  · exact ht

theorem rspPush_frame (hroom : s.qFull .rsp = false) (h : s.rspPush src = .ok t) :
    t = { s with mem := t.mem, cursors := t.cursors, rspW := s.rspW + 1 } := by
  obtain ⟨m, hcopy⟩ := copyBytes_only s src s.rspTail (s.completeLen src).toNat
  rw [rspPush_of_room hroom h, hcopy]
  rfl

theorem rspPush_cursorsOf_rspTail (hroom : s.qFull .rsp = false) (h : s.rspPush src = .ok t) :
    t.cursorsOf s.rspTail = { fillPos := 0, completeLen := s.completeLen src } := by
  rw [rspPush_of_room hroom h, bumpWrite_cursorsOf, cursorsOf_setCursors_same]

theorem rspPush_byteAt_rspTail (hne : src ≠ s.rspTail) (hlen : (s.completeLen src).toNat ≤ Config.capacity)
    (hroom : s.qFull .rsp = false) (h : s.rspPush src = .ok t) {j : Nat} (hj : j < Config.capacity) :
    t.byteAt s.rspTail j =
      if j < (s.completeLen src).toNat then s.byteAt src j else s.byteAt s.rspTail j := by
  rw [rspPush_of_room hroom h, bumpWrite_byteAt, setCursors_byteAt, copyBytes_byteAt s hne _ hlen _ j hj]
  simp only [true_and]

end Push

/-- Settles O23: the queue is not full, so the push is the copy into the write slot, which alone it writes. -/
theorem rspPushCopiesTheFrame : Obligations.RspPushCopiesTheFrame := by
  unfold Obligations.RspPushCopiesTheFrame
  intro s src hne hlen hcount
  have hroom : s.qFull .rsp = false := (qFull_rsp_eq_false_iff s).2 hcount
  obtain ⟨t, ht⟩ := rspPush_ok s src hlen
  rw [← rspTail_eq s]
  exact ⟨t, ht, rspPush_frame hroom ht, rspPush_cursorsOf_rspTail hroom ht,
    fun _ hj => rspPush_byteAt_rspTail hne hlen hroom ht hj, fun _ hb => sameBuffer_rspPush ht hne hb⟩

end Sys2Proof.Machine
end

section
/-! PROOFS. The bus snooper: S_SNOOP feeds both channels, then publishes, mirrors or drops the pair
(42_bus_snooper.md R130 to R135; 41_spsc_queue.md R120). -/

namespace Sys2Proof.Machine

/-! ## Faults and the intercept queue, in the words of the statements -/

/-- A raise sets the kind's bit of ERR as R62 lets it, and is recorded (R231). -/
theorem raise_eq (s : State) (k : FaultKind) :
    s.raise k =
      { s with err := errAfter s k.code, out := { s.out with raised := s.out.raised ||| k.mask } } := by
  simp [State.raise, State.updateLost, errAfter, FaultKind.mask, and_assoc, and_left_comm]

/-- Two raises of one kind in one step have one draw of R62 between them (log entry 9). -/
theorem raise_raise (s : State) (k : FaultKind) : (s.raise k).raise k = s.raise k := by
  have hlost : (s.raise k).updateLost k = s.updateLost k := rfl
  rw [State.raise, hlost]
  by_cases h : s.updateLost k = true <;> simp [State.raise, h, BitVec.or_assoc]

theorem qFull_int_eq_false_iff (s : State) : s.qFull .int = false ↔ s.intW - s.intR = 0 := by
  have hcount : s.count .int = s.intW - s.intR := rfl
  rw [State.qFull, hcount, decide_eq_false_iff_not, Config.nInt]
  bv_omega

theorem qFull_rsp_iff (s : State) : s.qFull .rsp = true ↔ (s.rspW - s.rspR).toNat = 4 := by
  rw [State.qFull, decide_eq_true_iff]; rfl

/-! ## The state in which both channels are fed (R131) -/

/-- The state after the bytes that UP and DN offer are appended to the working pair (R131). -/
def State.snoopFed (s : State) : State :=
  fedWith (fedWith s (.int s.workingSlot .up) s.move.up) (.int s.workingSlot .dn) s.move.dn

theorem snoopFed_eq_feedOpt (s : State) :
    s.snoopFed =
      ((s.feedOpt (.int s.workingSlot .up) s.move.up).1.feedOpt (.int s.workingSlot .dn) s.move.dn).1 := by
  rw [feedOpt_fedWith, feedOpt_fedWith, State.snoopFed]

theorem snoopFed_only (s : State) :
    ∃ m c e o, s.snoopFed = { s with mem := m, cursors := c, err := e, out := o } := by
  rw [snoopFed_eq_feedOpt]
  exact snoop_fed_only s s.workingSlot

@[simp] theorem snoopFed_cfg (s : State) : s.snoopFed.cfg = s.cfg := by
  obtain ⟨m, c, e, o, h⟩ := snoopFed_only s; rw [h]

@[simp] theorem snoopFed_intW (s : State) : s.snoopFed.intW = s.intW := by
  obtain ⟨m, c, e, o, h⟩ := snoopFed_only s; rw [h]

@[simp] theorem snoopFed_intR (s : State) : s.snoopFed.intR = s.intR := by
  obtain ⟨m, c, e, o, h⟩ := snoopFed_only s; rw [h]

@[simp] theorem snoopFed_rspW (s : State) : s.snoopFed.rspW = s.rspW := by
  obtain ⟨m, c, e, o, h⟩ := snoopFed_only s; rw [h]

@[simp] theorem snoopFed_rspR (s : State) : s.snoopFed.rspR = s.rspR := by
  obtain ⟨m, c, e, o, h⟩ := snoopFed_only s; rw [h]

theorem sameBuffer_snoopFed (s : State) {b : BufName} (hne : ∀ c, b ≠ .int s.workingSlot c) :
    SameBuffer s s.snoopFed b := by
  rw [snoopFed_eq_feedOpt]
  exact (sameBuffer_feedOpt s _ (hne .up)).trans (sameBuffer_feedOpt _ _ (hne .dn))

/-! ## The three ends of S_SNOOP (R130) -/

/-- The outcome of UP's byte, on which the pair is published or not (R130). -/
abbrev State.upOutcome (s : State) : Option FaOutcome := offerOutcome s (.int s.workingSlot .up) s.move.up

/-- Where UP's byte completes no frame, S_SNOOP ends with the bytes fed. -/
theorem exec_sSnoop_of_incomplete {s : State} (h : ∀ n, s.upOutcome ≠ some (.complete n)) :
    exec .sSnoop s = .next (s.snoopFed.goto .eval) := by
  simp only [exec, execSSnoop, ← snoopFed_eq_feedOpt, feedOpt_outcome]

/-- Where a pair waits, the pair that completes is dropped (R134). -/
theorem exec_sSnoop_of_full {s : State} {n : Byte} (h : s.upOutcome = some (.complete n))
    (hfull : s.snoopFed.qFull .int = true) :
    exec .sSnoop s = .next ((s.snoopFed.dropPair s.workingSlot).goto .eval) := by
  simp only [exec, execSSnoop, ← snoopFed_eq_feedOpt, feedOpt_outcome, h, hfull, if_true]

/-- Where none waits, it is published (R132). -/
theorem exec_sSnoop_of_published {s t : State} {n : Byte} (h : s.upOutcome = some (.complete n))
    (hroom : s.snoopFed.qFull .int = false) (hpublish : s.snoopFed.publishPair s.workingSlot = .ok t) :
    exec .sSnoop s = .next (t.goto .eval) := by
  simp only [exec, execSSnoop, ← snoopFed_eq_feedOpt, feedOpt_outcome, h, hroom, hpublish, Bool.false_eq_true,
    if_false]

/-! ## Without mirroring (R131, R132, R134) -/

/-- Settles O25: S_SNOOP's end without a complete UP frame, and a publish without ROUTE. -/
theorem snoopFeedsThenPublishes : Obligations.SnoopFeedsThenPublishes := by
  unfold Obligations.SnoopFeedsThenPublishes
  intro s
  refine ⟨fun h => exec_sSnoop_of_incomplete h, fun n h hempty hroute => ?_⟩
  have hroom : s.snoopFed.qFull .int = false := (qFull_int_eq_false_iff _).2 (by simpa using hempty)
  have hpublish : s.snoopFed.publishPair s.workingSlot = .ok (s.snoopFed.bumpWrite .int) :=
    if_neg (by simpa [State.route] using hroute)
  rw [exec_sSnoop_of_published h hroom hpublish, ← snoopFed_intW]
  rfl

theorem dropPair_frame (s : State) (w : Fin Config.nInt) :
    s.dropPair w =
      { s with
        cursors := (s.dropPair w).cursors
        err := errAfter s 4
        out := { s.out with raised := s.out.raised ||| 0x10 } } := by
  rw [State.dropPair, raise_eq]
  rfl

theorem dropPair_cursorsOf_pair (s : State) (w : Fin Config.nInt) (c : Chan) :
    (s.dropPair w).cursorsOf (.int w c) = Cursors.idle := by
  cases c <;> simp [dropPair_eq]

theorem dropPair_cursorsOf_other (s : State) {w : Fin Config.nInt} {b : BufName} (hne : ∀ c, b ≠ .int w c) :
    (s.dropPair w).cursorsOf b = s.cursorsOf b := by
  simp [dropPair_eq, hne]

theorem sameBuffer_dropPair (s : State) {w : Fin Config.nInt} {b : BufName} (hne : ∀ c, b ≠ .int w c) :
    SameBuffer s (s.dropPair w) b :=
  ⟨dropPair_cursorsOf_other s hne, fun _ _ => rfl⟩

/-- Settles O26: S_SNOOP's end with a pair waiting is `State.dropPair`, which clears the two working buffers. -/
theorem snoopDropsThePairWhenFull : Obligations.SnoopDropsThePairWhenFull := by
  unfold Obligations.SnoopDropsThePairWhenFull
  intro s n w fed h hwaiting
  have hfull : s.snoopFed.qFull .int = true := by
    rw [← Bool.not_eq_false, qFull_int_eq_false_iff, snoopFed_intW, snoopFed_intR]
    intro hempty
    rw [hempty] at hwaiting
    exact absurd hwaiting (by decide)
  refine ⟨_, exec_sSnoop_of_full h hfull, ?_, dropPair_cursorsOf_pair s.snoopFed w, fun b hne => ?_⟩
  · rw [dropPair_frame]
    rfl
  · exact (dropPair_cursorsOf_other s.snoopFed hne).trans (sameBuffer_snoopFed s hne).cursorsOf

/-! ## Mirroring is a push of each frame that is to be mirrored (R133) -/

/-- The frame of a channel is to be mirrored: not the UP frame under NOREQ, and not without a frame. -/
def State.isMirrored (s : State) (w : Fin Config.nInt) (c : Chan) : Bool :=
  !(c == .up && s.cfg.getLsbD 1) && s.completeLen (.int w c) != 0

theorem mirrorOne_eq (s : State) (w : Fin Config.nInt) (c : Chan) :
    s.mirrorOne w c = if s.isMirrored w c then s.rspPush (.int w c) else .ok s := by
  have hskip : (c == .up && s.cfg.getLsbD 1) = true ↔ c = .up ∧ s.noReq = true := by simp [State.noReq]
  by_cases hup : c = .up ∧ s.noReq = true
  · rw [State.mirrorOne, if_pos hup, State.isMirrored, hskip.2 hup]
    rfl
  · rw [State.mirrorOne, if_neg hup, State.isMirrored, Bool.eq_false_iff.2 (mt hskip.1 hup)]
    simp

/-- The frames of a pair are pushed into the response queue one after the other (R133). -/
def State.pushFrames (s : State) (w : Fin Config.nInt) : List Chan → Except Fault State
  | [] => .ok s
  | c :: frames => (s.rspPush (.int w c)).bind fun t => t.pushFrames w frames

theorem pushFrames_cons {s t : State} {w : Fin Config.nInt} {c : Chan} (frames : List Chan)
    (h : s.rspPush (.int w c) = .ok t) : s.pushFrames w (c :: frames) = t.pushFrames w frames := by
  rw [State.pushFrames, h, Except.bind]

/-- A push leaves both frames of the pair as they are (R120). -/
theorem sameBuffer_rspPush_pair {s t : State} {w : Fin Config.nInt} {c : Chan}
    (h : s.rspPush (.int w c) = .ok t) (c' : Chan) : SameBuffer s t (.int w c') :=
  sameBuffer_rspPush h (by simp [State.rspTail]) (by simp [State.rspTail])

theorem isMirrored_of_rspPush {s t : State} {w : Fin Config.nInt} {c : Chan}
    (h : s.rspPush (.int w c) = .ok t) (c' : Chan) : t.isMirrored w c' = s.isMirrored w c' := by
  have hlen := (sameBuffer_rspPush_pair h c').completeLen
  obtain ⟨m, cs, e, r, o, rfl⟩ := rspPush_only h
  rw [State.isMirrored, hlen]
  rfl

theorem mirrorOne_eq_pushFrames (s : State) (w : Fin Config.nInt) (c : Chan) :
    s.mirrorOne w c = s.pushFrames w ([c].filter (s.isMirrored w)) := by
  rw [mirrorOne_eq]
  cases hc : s.isMirrored w c with
  | false => simp [hc, State.pushFrames]
  | true =>
    cases hpush : s.rspPush (.int w c) <;> simp [hc, hpush, State.pushFrames, Except.bind]

/-- Whether the second frame is mirrored does not depend on the push of the first. -/
theorem mirrorOne_bind_eq_pushFrames (s : State) (w : Fin Config.nInt) (c c' : Chan) :
    (s.mirrorOne w c).bind (fun t => t.mirrorOne w c') = s.pushFrames w ([c, c'].filter (s.isMirrored w)) := by
  rw [mirrorOne_eq s w c]
  cases hc : s.isMirrored w c with
  | false =>
    rw [List.filter_cons_of_neg (by simp [hc]), ← mirrorOne_eq_pushFrames]
    rfl
  | true =>
    rw [List.filter_cons_of_pos hc, if_pos rfl]
    cases hpush : s.rspPush (.int w c) with
    | error f => rw [State.pushFrames, hpush]; rfl
    | ok t =>
      have hfilter : t.isMirrored w = s.isMirrored w := funext (isMirrored_of_rspPush hpush)
      rw [pushFrames_cons _ hpush, ← hfilter, ← mirrorOne_eq_pushFrames]
      rfl

theorem mirror_eq_pushFrames (s : State) (w : Fin Config.nInt) :
    s.mirror w = s.pushFrames w (mirroredFrames s w) := by
  have hframes (frames : List Chan) : frames.filter (s.isMirrored w) =
      frames.filter fun c => !(c == .up && s.cfg.getLsbD 1) && s.completeLen (.int w c) != 0 := rfl
  rw [State.mirror, mirroredFrames]
  cases Config.params.mirrorOrder with
  | upFirst => rw [if_pos rfl, ← hframes]; exact mirrorOne_bind_eq_pushFrames s w .up .dn
  | dnFirst => rw [if_neg (by decide), ← hframes]; exact mirrorOne_bind_eq_pushFrames s w .dn .up

theorem publishPair_of_route {s t : State} {w : Fin Config.nInt} (hroute : s.route = true)
    (h : s.pushFrames w (mirroredFrames s w) = .ok t) : s.publishPair w = .ok (t.bumpWrite .int) := by
  rw [State.publishPair, if_pos hroute, mirror_eq_pushFrames, h]
  rfl

/-- A pair that completes with ROUTE 1 and none waiting is published after its frames are pushed (R133). -/
theorem exec_sSnoop_of_mirrored {s t : State} {n : Byte} (h : s.upOutcome = some (.complete n))
    (hempty : s.intW - s.intR = 0) (hroute : s.cfg.getLsbD 0 = true)
    (hpush : s.snoopFed.pushFrames s.workingSlot (mirroredFrames s.snoopFed s.workingSlot) = .ok t) :
    exec .sSnoop s = .next ((t.bumpWrite .int).goto .eval) :=
  exec_sSnoop_of_published h ((qFull_int_eq_false_iff _).2 (by simpa using hempty))
    (publishPair_of_route (by simpa [State.route] using hroute) hpush)

/-! ## Mirroring into a full response queue (R120, R133) -/

theorem pushFrames_of_full {s : State} (hfull : s.qFull .rsp = true) (w : Fin Config.nInt)
    (frames : List Chan) :
    s.pushFrames w frames = .ok (if frames = [] then s else s.raise .bpRsp) := by
  induction frames generalizing s with
  | nil => rfl
  | cons c frames ih =>
    have hdrop : s.rspPush (.int w c) = .ok (s.raise .bpRsp) := if_pos hfull
    have hfull' : (s.raise .bpRsp).qFull .rsp = true := hfull
    rw [pushFrames_cons frames hdrop, ih hfull', raise_raise, ite_self, if_neg (List.cons_ne_nil c frames)]

/-- Settles O28: every push finds the queue full, so the mirroring is one raise of BP_RSP, or nothing. -/
theorem snoopPublishesDespiteFullResponses : Obligations.SnoopPublishesDespiteFullResponses := by
  unfold Obligations.SnoopPublishesDespiteFullResponses
  intro s n w fed h hempty hroute hcount
  have hfull : s.snoopFed.qFull .rsp = true := by
    rw [qFull_rsp_iff, snoopFed_rspW, snoopFed_rspR, hcount]
    rfl
  rw [exec_sSnoop_of_mirrored h hempty hroute (pushFrames_of_full hfull _ _), ← snoopFed_intW]
  by_cases hnone : mirroredFrames s.snoopFed s.workingSlot = []
  · rw [if_pos hnone, if_pos (show mirroredFrames fed w = [] from hnone)]
    rfl
  · rw [if_neg hnone, if_neg (show mirroredFrames fed w ≠ [] from hnone), raise_eq]
    rfl

/-! ## Mirroring into free response slots (R120, R133) -/

/-- The `k`-th response slot from the write slot on (R111). -/
def State.rspSlot (s : State) (k : Nat) : BufName := .rsp (slotOf Config.nRsp (s.rspW + BitVec.ofNat 32 k))

theorem rspSlot_zero (s : State) : s.rspSlot 0 = s.rspTail := by
  rw [State.rspSlot, BitVec.add_zero, State.rspTail]

theorem counter_add_succ (i : Counter) (k : Nat) : i + 1 + BitVec.ofNat 32 k = i + BitVec.ofNat 32 (k + 1) := by
  rw [BitVec.ofNat_add, BitVec.add_assoc, BitVec.add_comm 1]
  rfl

/-- After a publish the slots count from the next one on. -/
theorem rspSlot_of_published {s u : State} (hw : u.rspW = s.rspW + 1) (k : Nat) :
    u.rspSlot k = s.rspSlot (k + 1) := by
  rw [State.rspSlot, hw, counter_add_succ, State.rspSlot]

/-- The next three slots are other ones than the write slot. -/
theorem rspSlot_succ_ne_rspTail (s : State) {k : Nat} (hk : k < 3) : s.rspSlot (k + 1) ≠ s.rspTail := by
  intro h
  have hslot := congrArg Fin.val (BufName.rsp.inj h)
  rw [slotOf_nRsp, slotOf_nRsp, BitVec.toNat_add, BitVec.toNat_ofNat] at hslot
  omega

/-- The frames that find a free slot: the first ones, as many as slots are free. -/
def State.keptFrames (s : State) (frames : List Chan) : List Chan := frames.take (4 - (s.rspW - s.rspR).toNat)

theorem rspSlot_snoopFed (s : State) (k : Nat) : s.snoopFed.rspSlot k = s.rspSlot k := by
  rw [State.rspSlot, snoopFed_rspW, State.rspSlot]

theorem keptFrames_snoopFed (s : State) (frames : List Chan) :
    s.snoopFed.keptFrames frames = s.keptFrames frames := by
  rw [State.keptFrames, snoopFed_rspW, snoopFed_rspR, State.keptFrames]

theorem keptFrames_of_full {s : State} (hfull : s.qFull .rsp = true) (frames : List Chan) :
    s.keptFrames frames = [] := by
  rw [State.keptFrames, (qFull_rsp_iff s).1 hfull, Nat.sub_self, List.take_zero]

theorem keptFrames_length_le (s : State) (frames : List Chan) :
    (s.keptFrames frames).length ≤ 4 - (s.rspW - s.rspR).toNat :=
  List.length_take_le _ _

section Room

variable {s u : State} (hcount : (s.rspW - s.rspR).toNat < 4) (hw : u.rspW = s.rspW + 1) (hr : u.rspR = s.rspR)
include hcount hw hr

theorem freeSlots_of_published : 4 - (s.rspW - s.rspR).toNat = 4 - (u.rspW - u.rspR).toNat + 1 := by
  rw [hw, hr]
  bv_omega

/-- The first frame takes the write slot, and the others have one slot less. -/
theorem keptFrames_cons (c : Chan) (frames : List Chan) :
    s.keptFrames (c :: frames) = c :: u.keptFrames frames := by
  rw [State.keptFrames, freeSlots_of_published hcount hw hr, List.take_succ_cons, State.keptFrames]

/-- The slots that the other frames take are not the one that the first frame took. -/
theorem rspSlot_ne_rspTail {frames : List Chan} {k : Nat} (hk : k < (u.keptFrames frames).length) :
    u.rspSlot k ≠ s.rspTail := by
  have hfree := freeSlots_of_published hcount hw hr
  have hkept := keptFrames_length_le u frames
  rw [rspSlot_of_published hw]
  exact rspSlot_succ_ne_rspTail s (by omega)

end Room

/-! ## A copied frame (R120) -/

/-- The frame of `src` has been copied into `dst`, whose bytes beyond the frame are as before (R120). -/
def CopiedInto (s t : State) (src dst : BufName) : Prop :=
  t.cursorsOf dst = { fillPos := 0, completeLen := s.completeLen src } ∧
    ∀ j, j < Config.capacity →
      t.byteAt dst j = if j < (s.completeLen src).toNat then s.byteAt src j else s.byteAt dst j

theorem copiedInto_rspPush {s u : State} {src : BufName} (hne : src ≠ s.rspTail)
    (hlen : (s.completeLen src).toNat ≤ Config.capacity) (hroom : s.qFull .rsp = false)
    (h : s.rspPush src = .ok u) : CopiedInto s u src s.rspTail :=
  ⟨rspPush_cursorsOf_rspTail hroom h, fun _ hj => rspPush_byteAt_rspTail hne hlen hroom h hj⟩

/-- The copy stays where its slot is not written again. -/
theorem CopiedInto.then_same {s u t : State} {src dst : BufName} (h : CopiedInto s u src dst)
    (hdst : SameBuffer u t dst) : CopiedInto s t src dst :=
  ⟨hdst.cursorsOf.trans h.1, fun j hj => (hdst.byteAt hj).trans (h.2 j hj)⟩

/-- The copy is of the frame that stood there before, where neither source nor slot was written. -/
theorem CopiedInto.of_same {s u t : State} {src dst : BufName} (h : CopiedInto u t src dst)
    (hsrc : SameBuffer s u src) (hdst : SameBuffer s u dst) : CopiedInto s t src dst := by
  obtain ⟨hcursors, hbytes⟩ := h
  refine ⟨by rw [hcursors, hsrc.completeLen], fun j hj => ?_⟩
  rw [hbytes j hj, hsrc.completeLen, hsrc.byteAt hj, hdst.byteAt hj]

/-! ## The pushes of a pair's frames (R133) -/

/-- What the pushes of a pair's frames leave: the kept frames in the next slots, BP_RSP for any other. -/
structure Mirrored (s t : State) (w : Fin Config.nInt) (frames : List Chan) : Prop where
  only : ∃ m c, t =
    { s with
      mem := m
      cursors := c
      rspW := s.rspW + BitVec.ofNat 32 (s.keptFrames frames).length
      err := if s.keptFrames frames = frames then s.err else errAfter s 6
      out := { s.out with
        raised := if s.keptFrames frames = frames then s.out.raised else s.out.raised ||| 0x40 } }
  copied : ∀ k c, (s.keptFrames frames)[k]? = some c → CopiedInto s t (.int w c) (s.rspSlot k)
  others : ∀ b, (∀ k, k < (s.keptFrames frames).length → b ≠ s.rspSlot k) → SameBuffer s t b

theorem mirrored_nil (s : State) (w : Fin Config.nInt) : Mirrored s s w [] where
  only := ⟨s.mem, s.cursors, by simp [State.keptFrames]⟩
  copied k c hk := by simp [State.keptFrames] at hk
  others b _ := .refl s b

/-- With the queue full no frame is kept, and the frames are dropped with BP_RSP. -/
theorem mirrored_of_full {s : State} (hfull : s.qFull .rsp = true) (w : Fin Config.nInt) {frames : List Chan}
    (hframes : frames ≠ []) : Mirrored s (s.raise .bpRsp) w frames := by
  have hkept := keptFrames_of_full hfull frames
  refine ⟨⟨s.mem, s.cursors, ?_⟩, fun k c hk => ?_, fun b _ => .of_eq rfl rfl b⟩
  · rw [raise_eq, hkept, if_neg hframes.symm, if_neg hframes.symm]
    simp [FaultKind.mask, FaultKind.code]
  · simp [hkept] at hk

/-- A push into a free slot, and then the pushes of the other frames. -/
theorem Mirrored.cons {s u t : State} {w : Fin Config.nInt} {c : Chan} {frames : List Chan}
    (hcount : (s.rspW - s.rspR).toNat < 4) (hlen : (s.completeLen (.int w c)).toNat ≤ Config.capacity)
    (hpush : s.rspPush (.int w c) = .ok u) (h : Mirrored u t w frames) : Mirrored s t w (c :: frames) := by
  have hroom : s.qFull .rsp = false := by
    rw [← Bool.not_eq_true, qFull_rsp_iff]
    omega
  have hframe := rspPush_frame hroom hpush
  have hw : u.rspW = s.rspW + 1 := by rw [hframe]
  have hr : u.rspR = s.rspR := by rw [hframe]
  have hkept := keptFrames_cons hcount hw hr c frames
  have hsource : BufName.int w c ≠ s.rspTail := by simp [State.rspTail]
  have hother {b : BufName} (hb : b ≠ s.rspTail) : SameBuffer s u b := sameBuffer_rspPush hpush hsource hb
  have htail : SameBuffer u t s.rspTail :=
    h.others _ fun k hk => (rspSlot_ne_rspTail hcount hw hr hk).symm
  refine ⟨?_, fun k c' hk => ?_, fun b hb => ?_⟩
  · obtain ⟨m, cs, ht⟩ := h.only
    refine ⟨m, cs, ?_⟩
    rw [ht, hkept, List.length_cons, hw, counter_add_succ]
    simp only [List.cons.injEq, true_and]
    rw [hframe]
    rfl
  · rw [hkept] at hk
    cases k with
    | zero =>
      obtain rfl := Option.some.inj hk
      rw [rspSlot_zero]
      exact (copiedInto_rspPush hsource hlen hroom hpush).then_same htail
    | succ k =>
      rw [List.getElem?_cons_succ] at hk
      have hk' : k < (u.keptFrames frames).length := (List.getElem?_eq_some_iff.1 hk).1
      rw [← rspSlot_of_published hw]
      exact (h.copied k c' hk).of_same (sameBuffer_rspPush_pair hpush c')
        (hother (rspSlot_ne_rspTail hcount hw hr hk'))
  · rw [hkept, List.length_cons] at hb
    have hfirst : b ≠ s.rspTail := by
      rw [← rspSlot_zero]
      exact hb 0 (Nat.succ_pos _)
    refine (hother hfirst).trans (h.others b fun k hk => ?_)
    rw [rspSlot_of_published hw]
    exact hb (k + 1) (Nat.succ_lt_succ hk)

/-- The frames are pushed one by one: each into the next slot while one is free, and dropped from then on. -/
theorem pushFrames_mirrored (w : Fin Config.nInt) (frames : List Chan) (s : State)
    (hcount : (s.rspW - s.rspR).toNat ≤ 4)
    (hlen : ∀ c ∈ frames, (s.completeLen (.int w c)).toNat ≤ Config.capacity) :
    ∃ t, s.pushFrames w frames = .ok t ∧ Mirrored s t w frames := by
  induction frames generalizing s with
  | nil => exact ⟨s, rfl, mirrored_nil s w⟩
  | cons c frames ih =>
    obtain ⟨hfirst, hrest⟩ := List.forall_mem_cons.1 hlen
    by_cases hfull : s.qFull .rsp = true
    · exact ⟨_, pushFrames_of_full hfull w _, mirrored_of_full hfull w (List.cons_ne_nil c frames)⟩
    · have hfree : (s.rspW - s.rspR).toNat < 4 :=
        Nat.lt_of_le_of_ne hcount fun h => hfull ((qFull_rsp_iff s).2 h)
      obtain ⟨u, hpush⟩ := rspPush_ok s _ hfirst
      have hframe := rspPush_frame (by simpa using hfull) hpush
      have hcount' : (u.rspW - u.rspR).toNat ≤ 4 := by
        rw [hframe]
        bv_omega
      obtain ⟨t, ht, hmirrored⟩ := ih u hcount' fun c' hc' => by
        rw [(sameBuffer_rspPush_pair hpush c').completeLen]
        exact hrest c' hc'
      exact ⟨t, (pushFrames_cons frames hpush).trans ht, hmirrored.cons hfree hfirst hpush⟩

/-! ## The lengths of the fed pair (R92) -/

/-- FA_APPEND leaves a length in the capacity, as the fill position is below it (R21, R92). -/
theorem faAppend_completeLen_le {s : State} {b : BufName} (x : Byte)
    (h : (s.completeLen b).toNat ≤ Config.capacity) :
    ((s.faAppend b x).1.completeLen b).toNat ≤ Config.capacity := by
  have hfill := fillPos_lt s b
  rcases faAppend_cases s b x with ⟨-, e⟩ | ⟨-, -, e⟩ | ⟨-, -, -, e⟩ | ⟨-, -, -, e⟩ | ⟨-, -, -, -, e⟩ |
    ⟨-, -, -, -, -, e⟩
  case inr.inr.inr.inl =>
    rw [e, setFillPos_completeLen, setCompleteLen_completeLen, if_pos rfl]
    bv_omega
  all_goals
    rw [e]
    simpa using h

theorem feedOpt_completeLen_le {s : State} {b : BufName} (offer : Option Byte)
    (h : (s.completeLen b).toNat ≤ Config.capacity) :
    ((s.feedOpt b offer).1.completeLen b).toNat ≤ Config.capacity := by
  cases offer with
  | none => exact h
  | some x =>
    rw [feedOpt_some, (sameBuffer_faAppend_feed s b b x).completeLen]
    exact faAppend_completeLen_le x h

/-- A buffer that a byte completes held no frame before. -/
theorem completeLen_eq_zero_of_complete {s : State} {b : BufName} {offer : Option Byte} {n : Byte}
    (h : offerOutcome s b offer = some (.complete n)) : s.completeLen b = 0 := by
  obtain ⟨x, -, hx⟩ := Option.map_eq_some_iff.1 h
  by_contra hlen
  rw [faAppend_complete s b x hlen] at hx
  cases hx

/-- A completed UP frame is in the capacity. -/
theorem snoopFed_up_completeLen_le {s : State} {n : Byte} (h : s.upOutcome = some (.complete n)) :
    (s.snoopFed.completeLen (.int s.workingSlot .up)).toNat ≤ Config.capacity := by
  rw [snoopFed_eq_feedOpt, (sameBuffer_feedOpt _ s.move.dn (by simp)).completeLen]
  refine feedOpt_completeLen_le _ ?_
  rw [completeLen_eq_zero_of_complete h]
  decide

/-- Settles O27: the frames to be mirrored are pushed one by one (`pushFrames_mirrored`), and then the pair is
published. -/
theorem snoopMirrorsIntoFreeSlots : Obligations.SnoopMirrorsIntoFreeSlots := by
  unfold Obligations.SnoopMirrorsIntoFreeSlots
  intro s n w fed mirrored kept slot h hempty hroute hdn hfree
  have hlen (c : Chan) : (s.snoopFed.completeLen (.int s.workingSlot c)).toNat ≤ Config.capacity := by
    cases c with
    | up => exact snoopFed_up_completeLen_le h
    | dn => exact hdn
  obtain ⟨t, hpush, honly, hcopied, hothers⟩ :=
    pushFrames_mirrored s.workingSlot (mirroredFrames s.snoopFed s.workingSlot) s.snoopFed
      (by simpa using hfree.le) fun c _ => hlen c
  have hend (b : BufName) : SameBuffer t ((t.bumpWrite .int).goto .eval) b := .of_eq rfl rfl b
  simp only [keptFrames_snoopFed, rspSlot_snoopFed] at honly hcopied hothers
  refine ⟨_, exec_sSnoop_of_mirrored h hempty hroute hpush, ?_,
    fun k c hk => (hcopied k c hk).then_same (hend _), fun b hb => (hothers b hb).trans (hend b)⟩
  obtain ⟨m, c, rfl⟩ := honly
  rw [← snoopFed_intW s, ← snoopFed_rspW s]
  rfl

/-! ## S_SNOOP in every state (R130, R135) -/

/-- Frames in the capacity are pushed, or dropped, in every state of the queue. -/
theorem pushFrames_ok (w : Fin Config.nInt) (frames : List Chan) (s : State)
    (hlen : ∀ c, (s.completeLen (.int w c)).toNat ≤ Config.capacity) : ∃ t, s.pushFrames w frames = .ok t := by
  induction frames generalizing s with
  | nil => exact ⟨s, rfl⟩
  | cons c frames ih =>
    obtain ⟨u, hpush⟩ := rspPush_ok s _ (hlen c)
    rw [pushFrames_cons frames hpush]
    refine ih u fun c' => ?_
    rw [(sameBuffer_rspPush_pair hpush c').completeLen]
    exact hlen c'

theorem publishPair_ok {s : State} {w : Fin Config.nInt}
    (hlen : ∀ c, (s.completeLen (.int w c)).toNat ≤ Config.capacity) : ∃ t, s.publishPair w = .ok t := by
  by_cases hroute : s.route = true
  · obtain ⟨t, ht⟩ := pushFrames_ok w (mirroredFrames s w) s hlen
    exact ⟨_, publishPair_of_route hroute ht⟩
  · exact ⟨_, if_neg hroute⟩

theorem snoopFed_completeLen_le {s : State} {n : Byte} (h : s.upOutcome = some (.complete n))
    (hdn : (s.completeLen (.int s.workingSlot .dn)).toNat ≤ Config.capacity) (c : Chan) :
    (s.snoopFed.completeLen (.int s.workingSlot c)).toNat ≤ Config.capacity := by
  cases c with
  | up => exact snoopFed_up_completeLen_le h
  | dn =>
    rw [snoopFed_eq_feedOpt]
    refine feedOpt_completeLen_le _ ?_
    rwa [(sameBuffer_feedOpt s s.move.up (by simp)).completeLen]

/-- S_SNOOP never holds: the bytes are fed alone, or the pair is dropped or published (R130). -/
theorem exec_sSnoop_ends {s : State} (hdn : (s.completeLen (.int s.workingSlot .dn)).toNat ≤ Config.capacity) :
    ∃ u, exec .sSnoop s = .next (u.goto .eval) ∧
      (u = s.snoopFed ∨ u = s.snoopFed.dropPair s.workingSlot ∨
        s.snoopFed.publishPair s.workingSlot = .ok u) := by
  by_cases hcomplete : ∃ n, s.upOutcome = some (.complete n)
  · obtain ⟨n, hn⟩ := hcomplete
    by_cases hfull : s.snoopFed.qFull .int = true
    · exact ⟨_, exec_sSnoop_of_full hn hfull, .inr (.inl rfl)⟩
    · obtain ⟨t, ht⟩ := publishPair_ok (snoopFed_completeLen_le hn hdn)
      exact ⟨t, exec_sSnoop_of_published hn (by simpa using hfull) ht, .inr (.inr ht)⟩
  · exact ⟨_, exec_sSnoop_of_incomplete (not_exists.1 hcomplete), .inl rfl⟩

/-! ## What S_SNOOP leaves of the buffers (R130, R135) -/

theorem sameBuffer_mirrorOne {s t : State} {w : Fin Config.nInt} {c : Chan} {b : BufName}
    (h : s.mirrorOne w c = .ok t) (hb : b ≠ s.rspTail) : SameBuffer s t b := by
  rcases mirrorOne_cases h with rfl | ⟨-, hpush⟩
  · exact .refl _ b
  · exact sameBuffer_rspPush hpush (by simp [State.rspTail]) hb

/-- Publishing a pair writes no buffer but the next two response slots (R133). -/
theorem sameBuffer_publishPair {s t : State} {w : Fin Config.nInt} {b : BufName} (h : s.publishPair w = .ok t)
    (hfirst : b ≠ .rsp (slotOf Config.nRsp s.rspW)) (hsecond : b ≠ .rsp (slotOf Config.nRsp (s.rspW + 1))) :
    SameBuffer s t b := by
  rcases publishPair_cases h with ⟨-, rfl⟩ | ⟨-, v, hv, rfl⟩
  · exact sameBuffer_bumpWrite s .int b
  · obtain ⟨c, c', u, -, hu, hv⟩ := mirror_cases hv
    have htail : b ≠ u.rspTail := by
      rcases mirrorOne_rspW hu with hw | hw <;> rw [State.rspTail, hw]
      exacts [hfirst, hsecond]
    exact ((sameBuffer_mirrorOne hu hfirst).trans (sameBuffer_mirrorOne hv htail)).trans
      (sameBuffer_bumpWrite v .int b)

/-- Of its buffer FA_APPEND writes byte 0 or the byte at the fill position, or none (R92). -/
theorem faAppend_byteAt_inside (s : State) (b : BufName) (x : Byte) {j : Nat} (hj : j < Config.capacity)
    (hzero : j ≠ 0) (hfill : j ≠ (s.fillPos b).toNat) : (s.faAppend b x).1.byteAt b j = s.byteAt b j := by
  have hlt := fillPos_lt s b
  rcases faAppend_cases s b x with ⟨-, e⟩ | ⟨-, -, e⟩ | ⟨-, -, -, e⟩ | ⟨-, -, -, e⟩ | ⟨-, -, -, -, e⟩ |
    ⟨-, -, -, -, -, e⟩ <;> rw [e]
  case inr.inl => exact byteAt_putByte_of_index_ne s b _ (by decide) hj hzero
  case inr.inr.inr.inl => exact byteAt_putByte_of_index_ne s b _ hlt hj hfill
  case inr.inr.inr.inr.inl => rfl
  case inr.inr.inr.inr.inr => exact byteAt_putByte_of_index_ne s b _ hlt hj hfill

theorem feedOpt_byteAt_inside (s : State) (b : BufName) (offer : Option Byte) {j : Nat} (hj : j < Config.capacity)
    (hzero : j ≠ 0) (hfill : j ≠ (s.fillPos b).toNat) : (s.feedOpt b offer).1.byteAt b j = s.byteAt b j := by
  cases offer with
  | none => rfl
  | some x =>
    rw [feedOpt_some, feed_byteAt]
    exact faAppend_byteAt_inside s b x hj hzero hfill

theorem snoopFed_byteAt_inside (s : State) (c : Chan) {j : Nat} (hj : j < Config.capacity) (hzero : j ≠ 0)
    (hfill : j ≠ (s.fillPos (.int s.workingSlot c)).toNat) :
    s.snoopFed.byteAt (.int s.workingSlot c) j = s.byteAt (.int s.workingSlot c) j := by
  rw [snoopFed_eq_feedOpt]
  cases c with
  | up =>
    rw [(sameBuffer_feedOpt _ s.move.dn (by simp)).byteAt hj]
    exact feedOpt_byteAt_inside s _ _ hj hzero hfill
  | dn =>
    have hup : SameBuffer s (s.feedOpt (.int s.workingSlot .up) s.move.up).1 (.int s.workingSlot .dn) :=
      sameBuffer_feedOpt s _ (by simp)
    rw [feedOpt_byteAt_inside _ _ _ hj hzero (by rwa [hup.fillPos]), hup.byteAt hj]

/-- Settles O24: S_SNOOP has three ends (`exec_sSnoop_ends`); none of them writes more of the buffers than the
feeding, but for a cleared pair's cursors and the copies of a mirrored one. -/
theorem snoopAlwaysReachesEval : Obligations.SnoopAlwaysReachesEval := by
  unfold Obligations.SnoopAlwaysReachesEval
  intro s hdn
  obtain ⟨u, hexec, hend⟩ := exec_sSnoop_ends hdn
  have hbus : SameBusAndHost s (u.goto .eval) := by
    obtain ⟨m, c, e, n, r, o, h, -, -⟩ := execSSnoop_only hexec
    rw [h]
    simp [SameBusAndHost]
  refine ⟨_, hexec, rfl, rfl, hbus, fun b hup hdn' hfirst hsecond => ?_, fun c j hj hzero hfill => ?_⟩
  · have hpair (c : Chan) : b ≠ .int s.workingSlot c := by cases c <;> assumption
    refine ((sameBuffer_snoopFed s hpair).trans ?_).trans (.of_eq (s := u) rfl rfl b)
    rcases hend with rfl | rfl | hpublish
    · exact .refl _ b
    · exact sameBuffer_dropPair _ hpair
    · exact sameBuffer_publishPair hpublish (by rwa [snoopFed_rspW]) (by rwa [snoopFed_rspW])
  · rw [goto_byteAt, ← snoopFed_byteAt_inside s c hj hzero hfill]
    rcases hend with rfl | rfl | hpublish
    · rfl
    · rfl
    · have hsame : SameBuffer s.snoopFed u (.int s.workingSlot c) :=
        sameBuffer_publishPair hpublish (by simp) (by simp)
      exact hsame.byteAt hj

end Sys2Proof.Machine
end

section
/-! PROOFS. The bus injector: S_EVAL to S_ABORT, the state graph, and the windows of the bus outputs
(43_bus_injector.md R150 to R168; 41_spsc_queue.md R120; 44_host_port.md R202, R203). -/

namespace Sys2Proof.Machine

/-! ## From S_EVAL to S_VALIDATE (R151 to R153) -/

theorem workingSlot_eq (s : State) : s.workingSlot = Fin.ofNat 2 s.intW.toNat :=
  (workingSlot_eq_iff s _).2 rfl |>.symm

theorem idle_iff_cursorsOf (s : State) (b : BufName) : s.idle b = true ↔ s.cursorsOf b = Cursors.idle := by
  rw [idle_iff, State.fillPos, State.completeLen, Cursors.idle, Cursors.mk.injEq]

/-- The preconditions of a transaction, in the registers (R151). -/
theorem mayInject_iff (s : State) :
    s.mayInject = true ↔
      s.cursorsOf (.int s.workingSlot .up) = Cursors.idle ∧ s.cursorsOf (.int s.workingSlot .dn) = Cursors.idle ∧
        s.reqW - s.reqR ≠ 0 ∧ s.move.ready = true := by
  simp only [State.mayInject, Bool.and_eq_true, Bool.not_eq_true', idle_iff_cursorsOf, qEmpty_eq_false_iff, and_assoc]
  rfl

/-- Settles O29: S_EVAL's one test is `mayInject_iff`. -/
theorem evalAssertsArbWhenReady : Obligations.EvalAssertsArbWhenReady := by
  unfold Obligations.EvalAssertsArbWhenReady
  intro s
  rw [← workingSlot_eq]
  exact if_congr (mayInject_iff s) rfl rfl

/-- Settles O30: the two tests of S_GUARD are the statement's. -/
theorem guardRechecksReady : Obligations.GuardRechecksReady := by
  unfold Obligations.GuardRechecksReady
  exact fun s => rfl

theorem requestFramed_iff (s : State) :
    s.requestFramed = true ↔
      (s.completeLen (.req 0)).toNat ≠ 0 ∧ s.byteAt (.req 0) 0 = 0xF0 ∧
        s.byteAt (.req 0) ((s.completeLen (.req 0)).toNat - 1) = 0xF7 := by
  have hzero : (s.completeLen (.req 0)).toNat ≠ 0 ↔ s.completeLen (.req 0) ≠ 0 :=
    not_congr (BitVec.toNat_inj (y := 0#8))
  simp only [State.requestFramed, reqHead_eq, Bool.and_eq_true, bne_iff_ne, beq_iff_eq, and_assoc, hzero]

theorem exec_sValidate_of_framed {s : State} (hlen : (s.completeLen (.req 0)).toNat ≤ Config.capacity)
    (h : s.requestFramed = true) :
    exec .sValidate s = .next ({ s.xcvFlush with attnN := false, txi := 0 }.goto .tx) := by
  simp [exec, execSValidate, State.lenInCapacity, reqHead_eq, hlen, h]

theorem exec_sValidate_of_unframed {s : State} (hlen : (s.completeLen (.req 0)).toNat ≤ Config.capacity)
    (h : ¬ s.requestFramed = true) :
    exec .sValidate s = .next ({ (s.raise .framing).qRelease .req with arb := false }.goto .snoop) := by
  simp [exec, execSValidate, State.lenInCapacity, reqHead_eq, hlen, h]

theorem qRelease_req_cursorsOf (s : State) (b : BufName) :
    (s.qRelease .req).cursorsOf b = if b = .req 0 then Cursors.idle else s.cursorsOf b := by
  rw [qRelease_cursorsOf, reqHead_eq]

/-- Settles O31: the markers are `requestFramed_iff`, and the discarded request is released. -/
theorem validateStartsOrDiscardsTheRequest : Obligations.ValidateStartsOrDiscardsTheRequest := by
  unfold Obligations.ValidateStartsOrDiscardsTheRequest
  intro s hlen
  refine ⟨fun hframed => exec_sValidate_of_framed hlen ((requestFramed_iff s).2 hframed), fun hunframed => ?_⟩
  have hnot : ¬ s.requestFramed = true := fun h => by
    obtain ⟨hsome, hsof, heof⟩ := (requestFramed_iff s).1 h
    exact hunframed.elim hsome (Or.elim · (· hsof) (· heof))
  refine ⟨_, exec_sValidate_of_unframed hlen hnot, ?_, ?_, fun b hb => ?_⟩
  · rw [raise_eq]; rfl
  · exact (qRelease_req_cursorsOf _ _).trans (if_pos rfl)
  · exact (qRelease_req_cursorsOf _ _).trans (if_neg hb)

/-! ## S_TX (R154) -/

/-- The head request's byte at TXI is sent, and TXI moves on (R154). -/
def State.sendNext (s : State) : State :=
  { s.xcvSend (s.byteAt (.req 0) s.txi.toNat) with txi := s.txi + 1 }

theorem exec_sTx_of_noClock {s : State} (hclock : s.move.clock = none) : exec .sTx s = .next s := by
  simp only [exec, execSTx, hclock]

section Transmit

variable {s : State} {lb : Byte} (hclock : s.move.clock = some lb) (htxi : s.txi.toNat < Config.capacity)
include hclock htxi

theorem exec_sTx_of_more (hmore : s.txi + 1 ≠ s.completeLen (.req 0)) :
    exec .sTx s = .next (s.sendNext.goto .tx) := by
  simp only [exec, execSTx, hclock, reqHead_eq, if_pos htxi, if_neg hmore, State.sendNext]

theorem exec_sTx_of_last (hlast : s.txi + 1 = s.completeLen (.req 0)) :
    exec .sTx s = .next ({ s.sendNext.faClear .cap with t0 := s.now }.goto .cap) := by
  simp only [exec, execSTx, hclock, reqHead_eq, if_pos htxi, if_pos hlast, State.sendNext]

end Transmit

/-- Settles O32: the clock, and then the request's length, decide which of the three ends is taken. -/
theorem transmitSendsOneByteAClock : Obligations.TransmitSendsOneByteAClock := by
  unfold Obligations.TransmitSendsOneByteAClock
  intro s
  refine ⟨exec_sTx_of_noClock, fun lb hclock htxi hmore => exec_sTx_of_more hclock htxi hmore,
    fun lb hclock htxi hlast => ⟨_, exec_sTx_of_last hclock htxi hlast, rfl, ?_, fun b hb => ?_⟩⟩
  · exact cursorsOf_setCursors_same s.sendNext .cap Cursors.idle
  · exact cursorsOf_setCursors_of_ne s.sendNext Cursors.idle hb

/-! ## The end of a capture poll (R155, R162) -/

/-- The deadline test that ends a poll without a complete frame: TIMEOUT (bit 2) and S_ABORT, or S_CAP. -/
theorem capDeadline_eq (s : State) :
    s.capDeadline =
      if Config.params.tickHz ≤ (s.now - s.t0).toNat then
        { s with
          err := errAfter s 2
          fsm := 0x7
          errFresh := false
          out := { s.out with raised := s.out.raised ||| 0x04 } }
      else { s with fsm := 0x5, errFresh := false } := by
  rw [State.capDeadline, raise_eq]
  exact if_congr (deadline_iff s) rfl rfl

theorem exec_sCap_of_empty {s : State} (hrx : s.xcvRx = []) : exec .sCap s = .next s.capDeadline := by
  simp only [exec, execSCap, hrx]

/-- The oldest received byte, if there is one, is taken from XCV (R155, log entry 8). -/
abbrev State.polled (s : State) : State := { s with xcvRx := s.xcvRx.tail }

theorem glitch_iff (s : State) (x : Byte) : s.glitch x = true ↔ x = 0x00 ∧ s.fillPos .cap = 1 := by
  rw [State.glitch, Bool.and_eq_true, beq_iff_eq, beq_iff_eq]

section Poll

variable {s : State} {x : Byte} {rest : List Byte}

theorem polled_of_cons (hrx : s.xcvRx = x :: rest) : s.polled = { s with xcvRx := rest } := by
  rw [State.polled, hrx, List.tail_cons]

/-- A null after the start marker is filtered (R163). -/
theorem exec_sCap_of_glitch (hrx : s.xcvRx = x :: rest) (hglitch : x = 0x00 ∧ s.fillPos .cap = 1) :
    exec .sCap s = .next (s.polled.raise .glitch).capDeadline := by
  have h : s.polled.glitch x = true := (glitch_iff s.polled x).2 hglitch
  rw [polled_of_cons hrx] at h ⊢
  simp only [exec, execSCap, hrx, if_pos h]

/-- A byte that completes the frame ends the capture (R155). -/
theorem exec_sCap_of_complete (hrx : s.xcvRx = x :: rest) (hglitch : ¬(x = 0x00 ∧ s.fillPos .cap = 1)) {n : Byte}
    (hcomplete : (s.polled.feed .cap x).2 = .complete n) :
    exec .sCap s = .next ((s.polled.feed .cap x).1.goto .commit) := by
  have h : ¬ s.polled.glitch x = true := fun h => hglitch ((glitch_iff s.polled x).1 h)
  rw [polled_of_cons hrx] at h hcomplete ⊢
  rcases hfed : ({ s with xcvRx := rest } : State).feed .cap x with ⟨t, o⟩
  rw [hfed] at hcomplete
  obtain rfl : o = .complete n := hcomplete
  simp only [exec, execSCap, hrx, if_neg h, hfed]

/-- Any other byte is fed to CAP, and the deadline is then tested (R155). -/
theorem exec_sCap_of_incomplete (hrx : s.xcvRx = x :: rest) (hglitch : ¬(x = 0x00 ∧ s.fillPos .cap = 1))
    (hincomplete : ∀ n, (s.polled.feed .cap x).2 ≠ .complete n) :
    exec .sCap s = .next (s.polled.feed .cap x).1.capDeadline := by
  have h : ¬ s.polled.glitch x = true := fun h => hglitch ((glitch_iff s.polled x).1 h)
  rw [polled_of_cons hrx] at h hincomplete ⊢
  rcases hfed : ({ s with xcvRx := rest } : State).feed .cap x with ⟨t, o⟩
  rw [hfed] at hincomplete
  cases o with
  | complete n => exact absurd rfl (hincomplete n)
  | ignored | inProgress | overflow | rejected => simp only [exec, execSCap, hrx, if_neg h, hfed]

end Poll

/-- Settles O33: a poll without a byte is its deadline test. -/
theorem capturePollTestsDeadline : Obligations.CapturePollTestsDeadline := by
  unfold Obligations.CapturePollTestsDeadline
  intro s hrx
  rw [exec_sCap_of_empty hrx, capDeadline_eq, apply_ite Host.Outcome.next]

/-- Settles O34: the filtered byte leaves a raise of GLITCH and the deadline test. -/
theorem captureFiltersTheGlitch : Obligations.CaptureFiltersTheGlitch := by
  unfold Obligations.CaptureFiltersTheGlitch
  intro s rest hrx hfill
  rw [exec_sCap_of_glitch hrx ⟨rfl, hfill⟩, polled_of_cons hrx, raise_eq, capDeadline_eq,
    apply_ite Host.Outcome.next]
  rfl

/-- Settles O35: the end marker completes CAP (`faAppend_eof`), and S_COMMIT is then next without a deadline
test. -/
theorem captureCompletionBeatsDeadline : Obligations.CaptureCompletionBeatsDeadline := by
  unfold Obligations.CaptureCompletionBeatsDeadline
  intro s rest hrx hfill hlen
  have heof := faAppend_eof s.polled .cap hlen hfill
  have hfed : s.polled.feed .cap 0xF7 = s.polled.faAppend .cap 0xF7 := by
    rw [feed_eq, heof, if_neg (by simp)]
  have hexec := exec_sCap_of_complete hrx (fun h => absurd h.1 (by decide)) (hfed ▸ congrArg Prod.snd heof)
  rw [hfed] at hexec
  refine ⟨_, hexec, ?_, ?_, ?_, fun j hj hcap => ?_, fun b hb => ?_⟩
  · rw [heof, polled_of_cons hrx]; rfl
  · rw [goto_cursorsOf, heof, cursorsOf_setFillPos_same, setCompleteLen_completeLen, if_pos rfl]
    rfl
  · rw [goto_byteAt, heof]
    exact byteAt_putByte_same s.polled .cap _ _
  · rw [goto_byteAt, heof]
    exact byteAt_putByte_of_index_ne s.polled .cap _ (fillPos_lt s .cap) hcap hj
  · exact sameBuffer_faAppend s.polled 0xF7 hb

/-- What an S_CAP step does before it ends: it polls XCV, and filters the byte or feeds it to CAP, if there is
one (R155). -/
inductive PollEffect (s : State) : State → Prop
  | nothing : PollEffect s s.polled
  | filtered : PollEffect s (s.polled.raise .glitch)
  | fed (x : Byte) : PollEffect s (s.polled.feed .cap x).1

/-- S_CAP never holds and never stops: the poll is followed by S_COMMIT or by the deadline test (R155, R168). -/
theorem exec_sCap_ends (s : State) :
    ∃ u, PollEffect s u ∧ (exec .sCap s = .next (u.goto .commit) ∨ exec .sCap s = .next u.capDeadline) := by
  cases hrx : s.xcvRx with
  | nil =>
    have hpolled : s.polled = s := by rw [State.polled, hrx, List.tail_nil, ← hrx]
    exact ⟨s.polled, .nothing, .inr (by rw [hpolled, exec_sCap_of_empty hrx])⟩
  | cons x rest =>
    by_cases hglitch : x = 0x00 ∧ s.fillPos .cap = 1
    · exact ⟨_, .filtered, .inr (exec_sCap_of_glitch hrx hglitch)⟩
    · refine ⟨_, .fed x, ?_⟩
      by_cases hcomplete : ∃ n, (s.polled.feed .cap x).2 = .complete n
      · obtain ⟨n, hn⟩ := hcomplete
        exact .inl (exec_sCap_of_complete hrx hglitch hn)
      · exact .inr (exec_sCap_of_incomplete hrx hglitch (not_exists.1 hcomplete))

/-- After the poll an S_CAP step writes FSM, ERR and the model's records alone. -/
theorem exec_sCap_writes (s : State) :
    ∃ u e f o, PollEffect s u ∧ exec .sCap s = .next { u with err := e, fsm := f, errFresh := false, out := o } ∧
      (f = 0x5 ∨ f = 0x6 ∨ f = 0x7) := by
  obtain ⟨u, hu, hexec | hexec⟩ := exec_sCap_ends s
  · exact ⟨u, _, _, _, hu, hexec, .inr (.inl rfl)⟩
  · rw [capDeadline_eq] at hexec
    split at hexec
    · exact ⟨u, _, _, _, hu, hexec, .inr (.inr rfl)⟩
    · exact ⟨u, _, _, _, hu, hexec, .inl rfl⟩

theorem PollEffect.only {s u : State} (h : PollEffect s u) :
    ∃ m c e o, u = { s.polled with mem := m, cursors := c, err := e, out := o } := by
  cases h with
  | nothing | filtered => exact ⟨_, _, _, _, rfl⟩
  | fed x => exact feed_only s.polled .cap x

theorem PollEffect.sameBuffer {s u : State} (h : PollEffect s u) {b : BufName} (hb : b ≠ .cap) :
    SameBuffer s u b := by
  cases h with
  | nothing | filtered => exact .of_eq rfl rfl b
  | fed x => exact sameBuffer_feed s.polled x hb

theorem PollEffect.byteAt_inside {s u : State} (h : PollEffect s u) {j : Nat} (hj : j < Config.capacity)
    (hzero : j ≠ 0) (hfill : j ≠ (s.fillPos .cap).toNat) : u.byteAt .cap j = s.byteAt .cap j := by
  cases h with
  | nothing | filtered => rfl
  | fed x =>
    rw [feed_byteAt]
    exact faAppend_byteAt_inside s.polled .cap x hj hzero hfill

/-- What is fed, in the words of the statements (R95). -/
theorem feed_fedWith (s : State) (b : BufName) (x : Byte) : (s.feed b x).1 = fedWith s b (some x) :=
  feedOpt_fedWith s b (some x)

theorem fedWith_now (s : State) (b : BufName) (offer : Option Byte) : (fedWith s b offer).now = s.now := by
  obtain ⟨m, c, e, o, h⟩ := feedOpt_only s b offer
  rw [← feedOpt_fedWith, h]

theorem fedWith_t0 (s : State) (b : BufName) (offer : Option Byte) : (fedWith s b offer).t0 = s.t0 := by
  obtain ⟨m, c, e, o, h⟩ := feedOpt_only s b offer
  rw [← feedOpt_fedWith, h]

/-- Settles O36: what the poll does (`PollEffect`) and the step's end leave as it was; and a byte that completes
no frame is fed, with the deadline test after it. -/
theorem captureAlwaysGoesOn : Obligations.CaptureAlwaysGoesOn := by
  unfold Obligations.CaptureAlwaysGoesOn
  intro s
  constructor
  · obtain ⟨u, e, f, o, hu, hexec, hf⟩ := exec_sCap_writes s
    obtain ⟨herr, -⟩ := errBitsAreSticky .sCap s _ nofun hexec
    refine ⟨_, hexec, hf, fun b hb => (hu.sameBuffer hb).trans (.of_eq rfl rfl b),
      fun j hj hzero hfill => hu.byteAt_inside hj hzero hfill, ?_, ?_, ?_, herr⟩
    all_goals
      obtain ⟨m, c, e', o', rfl⟩ := hu.only
      simp [SameBusAndHost]
  · intro x rest hrx hglitch hincomplete fed
    have houtcome : (s.polled.feed .cap x).2 = (s.faAppend .cap x).2 :=
      (feed_outcome _ .cap x).trans (faAppend_outcome_congr x rfl)
    have hfed : (s.polled.feed .cap x).1 = fed := by rw [feed_fedWith, polled_of_cons hrx]
    have hnow : fed.now = s.now := fedWith_now _ _ _
    have ht0 : fed.t0 = s.t0 := fedWith_t0 _ _ _
    rw [exec_sCap_of_incomplete hrx hglitch (houtcome ▸ hincomplete), hfed, capDeadline_eq, hnow, ht0,
      apply_ite Host.Outcome.next]

/-! ## S_COMMIT and S_ABORT (R156, R157) -/

/-- ARB and ATTN_N are released (R156, R157). -/
abbrev State.busReleased (s : State) : State := { s with arb := false, attnN := true }

theorem exec_sAbort (s : State) : exec .sAbort s = .next ((s.busReleased.faClear .cap).goto .snoop) := rfl

theorem faClear_cursorsOf (s : State) (b b' : BufName) :
    (s.faClear b).cursorsOf b' = if b' = b then Cursors.idle else s.cursorsOf b' := by
  rw [faClear_eq, cursorsOf_setCursors]

/-- Settles O38: S_ABORT writes the two outputs, FSM and CAP's cursors, and no index counter. -/
theorem abortReleasesTheBus : Obligations.AbortReleasesTheBus := by
  unfold Obligations.AbortReleasesTheBus
  intro s
  refine ⟨_, exec_sAbort s, rfl, ?_, fun b hb => ?_⟩
  · exact (faClear_cursorsOf s.busReleased .cap .cap).trans (if_pos rfl)
  · exact (faClear_cursorsOf s.busReleased .cap b).trans (if_neg hb)

/-- The end of S_COMMIT: the request is consumed and CAP cleared (R156). -/
def State.committed (s : State) : State := ((s.qRelease .req).faClear .cap).goto .snoop

theorem exec_sCommit_of_push {s u : State} (h : s.busReleased.rspPush .cap = .ok u) :
    exec .sCommit s = .next u.committed := by
  simp only [exec, execSCommit, h, State.committed]

theorem committed_only (u : State) :
    u.committed = { u with cursors := u.committed.cursors, reqR := u.reqR + 1, fsm := 0x0, errFresh := false } :=
  rfl

theorem committed_byteAt (u : State) (b : BufName) (j : Nat) : u.committed.byteAt b j = u.byteAt b j := rfl

theorem committed_cursorsOf (u : State) (b : BufName) :
    u.committed.cursorsOf b = if b = .cap ∨ b = .req 0 then Cursors.idle else u.cursorsOf b := by
  rw [State.committed, goto_cursorsOf, faClear_cursorsOf, qRelease_req_cursorsOf, ite_or]

/-- Settles O37: the response is pushed as R120 has it, or BP_RSP raised, and `State.committed` follows. -/
theorem commitConsumesTheRequest : Obligations.CommitConsumesTheRequest := by
  unfold Obligations.CommitConsumesTheRequest
  intro s
  have hcap (u : State) : u.committed.cursorsOf .cap = Cursors.idle := by simp [committed_cursorsOf]
  have hreq (u : State) : u.committed.cursorsOf (.req 0) = Cursors.idle := by simp [committed_cursorsOf]
  have hother (u : State) (b : BufName) (hc : b ≠ .cap) (hr : b ≠ .req 0) :
      u.committed.cursorsOf b = u.cursorsOf b := by simp [committed_cursorsOf, hc, hr]
  refine ⟨fun hcount hlen => ?_, fun hcount => ?_⟩
  · have hroom : s.busReleased.qFull .rsp = false := (qFull_rsp_eq_false_iff s).2 hcount
    obtain ⟨u, hu⟩ := rspPush_ok s.busReleased .cap hlen
    have htail : BufName.cap ≠ s.busReleased.rspTail := nofun
    have hbyte {j : Nat} (hj : j < 128) := rspPush_byteAt_rspTail htail hlen hroom hu hj
    have hsame {b : BufName} (hb : b ≠ s.rspTail) : SameBuffer s.busReleased u b := sameBuffer_rspPush hu htail hb
    refine ⟨u.committed, exec_sCommit_of_push hu, ?_, ?_, fun j hj => ?_, fun j hle hj => ?_, fun b j hb hj => ?_,
      hcap u, hreq u, fun b hb hc hr => ?_⟩
    · rw [committed_only u, rspPush_frame hroom hu]
    · exact (hother u s.rspTail nofun nofun).trans (rspPush_cursorsOf_rspTail (s := s.busReleased) hroom hu)
    · rw [committed_byteAt]
      exact (hbyte (hj.trans_le hlen)).trans (if_pos hj)
    · rw [committed_byteAt]
      exact (hbyte hj).trans (if_neg (Nat.not_lt.2 hle))
    · rw [committed_byteAt]
      exact (hsame hb).byteAt hj
    · exact (hother u b hc hr).trans (hsame hb).cursorsOf
  · have hfull : s.busReleased.rspPush .cap = .ok (s.busReleased.raise .bpRsp) :=
      if_pos (decide_eq_true (congrArg BitVec.toNat hcount))
    refine ⟨_, exec_sCommit_of_push hfull, ?_, hcap _, hreq _, fun b hc hr => hother _ b hc hr⟩
    rw [raise_eq]; rfl

/-! ## Two ENGINE steps at the deadline (R162, R274) -/

theorem decodeFsm4_code (e : EngineState) : decodeFsm4 e.code = .ok e.instr := by
  cases e <;> rfl

/-- ENGINE's move runs the operation of the state that FSM names. -/
theorem step_engine {s : State} {e : EngineState} (hfa : s.faWord = none) (hturn : s.move.turn = .engine)
    (hfsm : s.fsm = e.code) : step s = endOutcome State.endStep (exec e.instr s.beginStep) :=
  step_of_fetch_run (fetch_eq_run hfa (.inl ⟨hturn, hfsm ▸ decodeFsm4_code e⟩))

theorem move_of_tape {s : State} {m : Move} {rest : List Move} (h : s.tape = m :: rest) : s.move = m := by
  rw [State.move, h]

/-- ENGINE's step in S_CAP where XCV has received nothing is the deadline test (R155). -/
theorem step_cap_of_empty {s : State} (hfa : s.faWord = none) (hturn : s.move.turn = .engine)
    (hfsm : s.fsm = EngineState.cap.code) (hrx : s.xcvRx = []) (hin : s.move.xcvIn = []) :
    step s = .next s.beginStep.capDeadline.endStep := by
  have hempty : s.beginStep.xcvRx = [] := by rw [beginStep_xcvRx, hrx, hin, List.append_nil]
  rw [step_engine hfa hturn hfsm, EngineState.instr, exec_sCap_of_empty hempty, endOutcome]

theorem step_abort {s : State} (hfa : s.faWord = none) (hturn : s.move.turn = .engine)
    (hfsm : s.fsm = EngineState.abort.code) :
    step s = .next ((s.beginStep.busReleased.faClear .cap).goto .snoop).endStep := by
  rw [step_engine hfa hturn hfsm, EngineState.instr, exec_sAbort, endOutcome]

/-- Settles O40: the first step is the deadline test, and after TIMEOUT the second is S_ABORT's. -/
theorem timeoutReleasesTheBusInTwoSteps : Obligations.TimeoutReleasesTheBusInTwoSteps := by
  unfold Obligations.TimeoutReleasesTheBusInTwoSteps
  intro s m₁ m₂ rest hfa hfsm htape hturn₁ hturn₂ hrx hin
  have hmove : s.move = m₁ := move_of_tape htape
  have hpoll := step_cap_of_empty hfa (hmove ▸ hturn₁) hfsm hrx (hmove ▸ hin)
  rw [capDeadline_eq] at hpoll
  by_cases hdeadline : Config.params.tickHz ≤ (s.now - s.t0).toNat
  · rw [if_pos hdeadline]
    rw [beginStep_now, beginStep_t0, if_pos hdeadline] at hpoll
    refine ⟨_, _, hpoll, BitVec.zero_or, step_abort hfa ?_ rfl, rfl, rfl, rfl, rfl, faClear_idle _ _, rfl, rfl, rfl,
      rfl, fun b hb => ?_⟩
    · rw [move_of_tape (m := m₂) (rest := rest) (congrArg List.tail htape)]
      exact hturn₂
    · exact sameBuffer_faClear _ hb
  · rw [if_neg hdeadline]
    rw [beginStep_now, beginStep_t0, if_neg hdeadline] at hpoll
    exact ⟨_, hpoll, rfl, rfl, rfl, rfl, rfl, fun b => .of_eq rfl rfl b⟩

/-! ## The state graph and the bus windows (R150, R159, R160) -/

/-- The successors of an ENGINE state (R150). -/
def EngineState.successors : EngineState → List EngineState
  | .snoop => [.eval]
  | .eval => [.guard, .snoop]
  | .guard => [.validate, .snoop]
  | .validate => [.tx, .snoop]
  | .tx => [.tx, .cap]
  | .cap => [.cap, .commit, .abort]
  | .commit => [.snoop]
  | .abort => [.snoop]

/-- The bus outputs are as an ENGINE state has them: ARB asserted from S_GUARD on, ATTN_N from S_TX on (R159, R160). -/
def InWindows (s : State) (e : EngineState) : Prop :=
  s.arb = decide (2 ≤ e.code.toNat) ∧ s.attnN = decide (e.code.toNat < 4)

theorem busWindows_iff {s : State} {e : EngineState} (hfsm : s.fsm = e.code) :
    s.busWindows = true ↔ InWindows s e := by
  simp [State.busWindows, InWindows, hfsm]

/-- An ENGINE step holds in S_GUARD or S_TX, or goes to a successor with the bus outputs set as that state has
them (R150, R159, R160). -/
theorem exec_engine_successor {e : EngineState} {s t : State} (hexec : exec e.instr s = .next t) :
    (t = s ∧ (e = .guard ∨ e = .tx)) ∨
      ∃ e' ∈ e.successors, t.fsm = e'.code ∧ (InWindows s e → InWindows t e') := by
  cases e with
  | snoop =>
    obtain ⟨m, c, e, n, r, o, rfl, -, -⟩ := execSSnoop_only hexec
    exact .inr ⟨.eval, by decide, rfl, id⟩
  | eval =>
    rcases execSEval_cases hexec with ⟨-, rfl⟩ | ⟨-, rfl⟩
    · exact .inr ⟨.guard, by decide, rfl, fun ⟨_, hattn⟩ => ⟨rfl, hattn⟩⟩
    · exact .inr ⟨.snoop, by decide, rfl, id⟩
  | guard =>
    rcases execSGuard_cases hexec with ⟨-, rfl⟩ | ⟨-, -, rfl⟩ | ⟨-, -, rfl⟩
    · exact .inl ⟨rfl, .inl rfl⟩
    · exact .inr ⟨.validate, by decide, rfl, id⟩
    · exact .inr ⟨.snoop, by decide, rfl, fun ⟨_, hattn⟩ => ⟨rfl, hattn⟩⟩
  | validate =>
    obtain ⟨-, ⟨-, rfl⟩ | ⟨-, rfl⟩⟩ := execSValidate_cases hexec
    · exact .inr ⟨.tx, by decide, rfl, fun ⟨harb, _⟩ => ⟨harb, rfl⟩⟩
    · exact .inr ⟨.snoop, by decide, rfl, fun ⟨_, hattn⟩ => ⟨rfl, hattn⟩⟩
  | tx =>
    rcases execSTx_cases hexec with ⟨-, rfl⟩ | ⟨-, -, -, ⟨-, rfl⟩ | ⟨-, rfl⟩⟩
    · exact .inl ⟨rfl, .inr rfl⟩
    · exact .inr ⟨.cap, by decide, rfl, id⟩
    · exact .inr ⟨.tx, by decide, rfl, id⟩
  | cap =>
    obtain ⟨u, e, f, o, hu, hnext, hf⟩ := exec_sCap_writes s
    obtain ⟨m, c, e', o', rfl⟩ := hu.only
    obtain rfl := Host.Outcome.next.inj (hnext.symm.trans hexec)
    rcases hf with rfl | rfl | rfl
    · exact .inr ⟨.cap, by decide, rfl, id⟩
    · exact .inr ⟨.commit, by decide, rfl, id⟩
    · exact .inr ⟨.abort, by decide, rfl, id⟩
  | commit =>
    obtain ⟨m, c, e, r, o, rfl, -⟩ := execSCommit_only hexec
    exact .inr ⟨.snoop, by decide, rfl, fun _ => ⟨rfl, rfl⟩⟩
  | abort =>
    obtain rfl := execSAbort_next hexec
    exact .inr ⟨.snoop, by decide, rfl, fun _ => ⟨rfl, rfl⟩⟩

/-- Settles O47: the successors of `exec_engine_successor`, by their codes. -/
theorem engineFollowsTheStateGraph : Obligations.EngineFollowsTheStateGraph := by
  unfold Obligations.EngineFollowsTheStateGraph
  intro i s t hdecode hexec
  obtain ⟨e, -, rfl⟩ := decodeFsm4_eq_instr hdecode
  rcases exec_engine_successor hexec with ⟨rfl, rfl | rfl⟩ | ⟨e', hsucc, hfsm, -⟩
  · exact .inl rfl
  · exact .inl rfl
  · have hcode : t.fsm ∈ e.successors.map EngineState.code := hfsm ▸ List.mem_map_of_mem hsucc
    cases e with
    | guard | tx => exact .inr (by simpa [EngineState.successors, EngineState.code] using hcode)
    | snoop | eval | validate | cap | commit | abort =>
      simpa [EngineState.instr, EngineState.successors, EngineState.code] using hcode

/-- A step that leaves FSM and both outputs leaves them in their windows. -/
theorem windows_of_same {s t : State} (hlegal : s.fsmLegal = true) (hbus : s.busWindows = true)
    (hfsm : t.fsm = s.fsm) (harb : t.arb = s.arb) (hattn : t.attnN = s.attnN) :
    t.fsmLegal = true ∧ t.busWindows = true := by
  rw [State.fsmLegal, State.busWindows, hfsm, harb, hattn]
  exact ⟨hlegal, hbus⟩

/-- An ENGINE step leaves the outputs as the state it goes to has them. -/
theorem windows_of_engine {e : EngineState} {s t : State} (hs : s.fsm = e.code) (hbus : s.busWindows = true)
    (hexec : exec e.instr s = .next t) : t.fsmLegal = true ∧ t.busWindows = true := by
  rcases exec_engine_successor hexec with ⟨rfl, -⟩ | ⟨e', -, hfsm, hwindows⟩
  · exact ⟨decide_eq_true (hs ▸ code_lt e), hbus⟩
  · exact ⟨decide_eq_true (hfsm ▸ code_lt e'), (busWindows_iff hfsm).2 (hwindows ((busWindows_iff hs).1 hbus))⟩

/-- Settles O56: ENGINE's step keeps the windows, and no other agent's step writes FSM, ARB or ATTN_N. -/
theorem stepKeepsTheBusWindows : Obligations.StepKeepsTheBusWindows := by
  unfold Obligations.StepKeepsTheBusWindows
  intro s t hlegal hbus hstep
  rcases step_cases hstep with ⟨i, u, hfetch, hexec, rfl⟩ | ⟨i, u, hfetch, hexec, rfl⟩ | ⟨-, rfl⟩ |
    ⟨e, -, rfl⟩ | ⟨-, rfl⟩
  · obtain ⟨-, ⟨-, hdecode⟩ | ⟨w, -, -, hdecode⟩⟩ := fetch_run hfetch
    · obtain ⟨e, hcode, rfl⟩ := decodeFsm4_eq_instr hdecode
      exact windows_of_engine (s := s.beginStep) (t := u) hcode hbus hexec
    · obtain ⟨v, fresh, result, he, rfl⟩ := exec_host_effect (decodeCmd32_format hdecode) hexec
      obtain ⟨-, harb, hattn, -, -, hfsm, -, -⟩ := he.registers
      exact windows_of_same hlegal hbus hfsm harb hattn
  · obtain ⟨w, -, rfl⟩ := fetch_runFa hfetch
    rw [decodeFa9] at hexec
    split at hexec
    · obtain rfl : State.faClear _ _ = u := Host.Outcome.next.inj hexec
      exact windows_of_same hlegal hbus rfl rfl rfl
    · obtain ⟨m, c, o, rfl⟩ := execFaAppend_only hexec
      exact windows_of_same hlegal hbus rfl rfl rfl
  · exact windows_of_same hlegal hbus rfl rfl rfl
  · exact windows_of_same hlegal hbus rfl rfl rfl
  · exact windows_of_same hlegal hbus rfl rfl rfl

/-! ## The responses HOST reads (R165, R202, R203) -/

theorem slotPublished_rspHead {s : State} (h : s.count .rsp ≠ 0) :
    s.slotPublished .rsp Config.nRsp (slotOf Config.nRsp s.rspR).val = true := by
  have hpos : 0 < (s.count .rsp).toNat := Nat.pos_of_ne_zero fun e => h (BitVec.eq_of_toNat_eq e)
  rw [slotPublished_iff, slotOf_nRsp]
  have hmod : s.rspR.toNat % 4 + 4 - s.rspR.toNat % 4 = 4 := by omega
  simp only [State.readIdx, Config.nRsp, hmod]
  exact hpos

/-- The head response is a frame (R165). -/
theorem Inv.rspHead_frame {s : State} (h : Inv s) (hsome : s.count .rsp ≠ 0) :
    2 ≤ (s.completeLen s.rspHead).toNat ∧ (s.completeLen s.rspHead).toNat ≤ Config.capacity ∧
      s.byteAt s.rspHead 0 = Config.sof ∧ s.byteAt s.rspHead ((s.completeLen s.rspHead).toNat - 1) = Config.eof := by
  have hcomplete : s.completeLen s.rspHead ≠ 0 := (if_pos (slotPublished_rspHead hsome)).mp (h.responses _)
  obtain ⟨htwo, hcap, -, hsof, heof⟩ := (h.frames s.rspHead rfl).1 hcomplete
  exact ⟨htwo, hcap, hsof, heof⟩

theorem exec_rspLen {s : State} (hsome : s.count .rsp ≠ 0) :
    exec .rspLen s = .next (answer s .ok (s.completeLen s.rspHead)) :=
  if_neg (by simpa [State.qEmpty] using hsome)

theorem exec_rspRead {s : State} {idx : Byte} (hsome : s.count .rsp ≠ 0) (hidx : idx.toNat ≤ 127)
    (hlt : idx.toNat < (s.completeLen s.rspHead).toNat) :
    exec (.rspRead idx) s = .next (answer s .ok (s.byteAt s.rspHead idx.toNat)) := by
  have hempty : s.qEmpty .rsp = false := (qEmpty_eq_false_iff s .rsp).2 hsome
  simp only [exec, execRspRead, if_pos hidx, hempty, readFrame_eq, if_pos hlt]
  rfl

/-- Settles O60: the head response is complete, so its bytes below its length are readable, the markers among
them. -/
theorem readableResponsesAreFrames : Obligations.ReadableResponsesAreFrames := by
  unfold Obligations.ReadableResponsesAreFrames
  intro s h hcount
  have hsome : s.count .rsp ≠ 0 := hcount
  obtain ⟨htwo, hcap, hsof, heof⟩ := h.rspHead_frame hsome
  have hlast : (s.completeLen s.rspHead - 1).toNat = (s.completeLen s.rspHead).toNat - 1 := by bv_omega
  refine ⟨_, exec_rspLen hsome, htwo, hcap, ?_, ?_⟩
  · rw [exec_rspRead hsome (by decide) (Nat.lt_of_lt_of_le Nat.two_pos htwo)]
    exact congrArg (fun b => Host.Outcome.next (answer s .ok b)) hsof
  · simp only [Config.capacity] at hcap
    rw [exec_rspRead hsome (by omega) (by omega), hlast, heof]

end Sys2Proof.Machine
end

section
/-! PROOFS. The host port: how each command's word is read, what the command answers, and what it writes
(44_host_port.md R190 to R204; 30_encoding.md R75, R77). -/

namespace Sys2Proof

/-- A word that differs from a command's encoding in unused fields alone is that command (R75). -/
theorem decodeCmd32_of_encode {i : Instr} {op sel idx data sel' idx' data' : Byte}
    (hword : encode i = .cmd32 (enc op sel' idx' data')) (hsel : UsesSel op → sel = sel' := by simp [UsesSel])
    (hidx : UsesIdx op → idx = idx' := by simp [UsesIdx])
    (hdata : UsesData op → data = data' := by simp [UsesData]) :
    decodeCmd32 (enc op sel idx data) = .ok i := by
  have hdecode : decode (encode i) = .ok i := decodeOfEncodeIsIdentity i
  rw [hword] at hdecode
  calc decodeCmd32 (enc op sel idx data) = decodeCmd32 (enc op sel' idx' data') :=
        decodeCmd32_congr (by simp) (by simpa using hsel) (by simpa using hidx) (by simpa using hdata)
    _ = .ok i := hdecode

end Sys2Proof

namespace Sys2Proof.Machine

/-! ## Every command returns, and leaves ENGINE and the bus alone (R190) -/

/-- The outcome is a state that shows a result (R76). -/
def Returns (o : Host.Outcome State Fault Refusal) : Prop := ∃ t, o = .next t ∧ t.out.result.isSome = true

theorem returns_hostReturn (u : State) (st : Status) (d : Byte) : Returns (.next (u.hostReturn st d)) :=
  ⟨_, rfl, rfl⟩

theorem returns_hostRefuse (u : State) (st : Status) : Returns (u.hostRefuse st) := returns_hostReturn u st 0x00

theorem Returns.ite {c : Prop} [Decidable c] {o o' : Host.Outcome State Fault Refusal} (h : Returns o)
    (h' : Returns o') : Returns (if c then o else o') := by
  split
  · exact h
  · exact h'

theorem returns_readFrame (s : State) (b : BufName) (idx : Byte) : Returns (s.readFrame b idx) :=
  .ite (returns_hostReturn _ _ _) (returns_hostRefuse _ _)

/-- No host command stops or waits: each branch of its rule ends by returning a result (R76, R190). -/
theorem returns_exec_host {i : Instr} (hi : i.format = .cmd32) (s : State) : Returns (exec i s) := by
  cases i with
  | nop => exact returns_hostReturn _ _ _
  | errClear => exact ⟨_, rfl, rfl⟩
  | rdreg sel idx =>
    simp only [exec, execRdreg]
    cases regOfSel sel with
    | none => exact returns_hostRefuse _ _
    | some r => exact .ite (returns_hostReturn _ _ _) (returns_hostRefuse _ _)
  | wrreg sel data =>
    simp only [exec, execWrreg]
    split
    · exact returns_hostReturn _ _ _
    all_goals exact returns_hostRefuse _ _
  | qcount sel =>
    simp only [exec, execQcount]
    cases queueOfSel sel with
    | none => exact returns_hostRefuse _ _
    | some q => exact returns_hostReturn _ _ _
  | intRead sel idx =>
    simp only [exec, execIntRead]
    cases chanOfSel sel with
    | none => exact returns_hostRefuse _ _
    | some c => exact .ite (.ite (returns_hostRefuse _ _) (returns_readFrame _ _ _)) (returns_hostRefuse _ _)
  | intLen sel =>
    simp only [exec, execIntLen]
    cases chanOfSel sel with
    | none => exact returns_hostRefuse _ _
    | some c => exact .ite (returns_hostRefuse _ _) (returns_hostReturn _ _ _)
  | rspRead idx => exact .ite (.ite (returns_hostRefuse _ _) (returns_readFrame _ _ _)) (returns_hostRefuse _ _)
  | reqWrite | reqSetlen =>
    exact .ite (.ite (returns_hostRefuse _ _) (returns_hostReturn _ _ _)) (returns_hostRefuse _ _)
  | reqPublish | intRelease | rspLen | rspRelease =>
    exact .ite (returns_hostRefuse _ _) (returns_hostReturn _ _ _)
  | sSnoop | sEval | sGuard | sValidate | sTx | sCap | sCommit | sAbort | faAppend _ | faClear => cases hi

/-- HOST neither drives XCV nor takes a byte from it (R29, R206). -/
theorem HostEffect.bus {i : Instr} {s u : State} (h : HostEffect s i u) :
    u.out.xcv = s.out.xcv ∧ u.xcvRx = s.xcvRx := by
  cases h with
  | nothing | writeCfg | clearErr | writeByte | setLen | refusePublish | publish | releasePair
    | releaseResponse => exact ⟨rfl, rfl⟩

/-- Settles O13: `returns_exec_host` gives the state, and the one effect a command has (`exec_host_effect`) leaves
ENGINE's registers and counters, CAP and the bus as they were. -/
theorem hostCommandsAnswerAndLeaveTheEngine : Obligations.HostCommandsAnswerAndLeaveTheEngine := by
  unfold Obligations.HostCommandsAnswerAndLeaveTheEngine
  intro i s hi
  obtain ⟨t, hexec, hresult⟩ := returns_exec_host hi s
  have hcap : SameBuffer s t .cap :=
    hostCommandsKeepToOwnedBuffers i s t .cap hi hexec (fun _ _ => nofun) (fun _ => nofun) (fun _ => nofun)
  obtain ⟨u, fresh, result, he, rfl⟩ := exec_host_effect hi hexec
  obtain ⟨-, harb, hattn, htxi, ht0, hfsm, hnow, -⟩ := he.registers
  obtain ⟨hintW, -, -, hreqR, hrspW, -⟩ := he.indexCounters
  obtain ⟨hxcv, hrx⟩ := he.bus
  exact ⟨_, hexec, hresult, hfsm, harb, hattn, htxi, ht0, hcap, hnow, hxcv, hrx, hintW, hreqR, hrspW⟩

/-! ## NOP and ERR_CLEAR (R191, R194) -/

/-- Settles O1. -/
theorem nopReturnsOk : Obligations.NopReturnsOk := by
  unfold Obligations.NopReturnsOk
  exact fun sel idx data s => ⟨decodeCmd32_of_encode (i := .nop) rfl, rfl⟩

/-- Settles O4. -/
theorem errClearReturnsOldValue : Obligations.ErrClearReturnsOldValue := by
  unfold Obligations.ErrClearReturnsOldValue
  exact fun sel idx data s => ⟨decodeCmd32_of_encode (i := .errClear) rfl, rfl⟩

/-! ## The registers by their numbers (R77, R192, R193) -/

/-- A register's number, its selector in RDREG and WRREG (R77). -/
def RegName.sel : RegName → Byte
  | .err => 0x00
  | .cfg => 0x01
  | .status => 0x02
  | .intW => 0x03
  | .intR => 0x04
  | .reqW => 0x05
  | .reqR => 0x06
  | .rspW => 0x07
  | .rspR => 0x08

theorem regOfSel_sel (r : RegName) : regOfSel r.sel = some r := by cases r <;> rfl

/-- The selectors up to 0x08 are the registers' numbers. -/
theorem exists_eq_regSel {sel : Byte} (h : sel.toNat ≤ 0x08) : ∃ r : RegName, sel = r.sel := by
  have hsel : sel = BitVec.ofNat 8 sel.toNat := by simp
  generalize sel.toNat = n at h hsel
  interval_cases n
  exacts [⟨.err, hsel⟩, ⟨.cfg, hsel⟩, ⟨.status, hsel⟩, ⟨.intW, hsel⟩, ⟨.intR, hsel⟩, ⟨.reqW, hsel⟩,
    ⟨.reqR, hsel⟩, ⟨.rspW, hsel⟩, ⟨.rspR, hsel⟩]

/-- Lane `k` of a value is its low byte after `k` bytes are shifted out (R55). -/
theorem laneOf_eq (v : BitVec 32) (k : Nat) : laneOf v k = (v >>> (8 * k)).setWidth 8 := by
  apply BitVec.eq_of_toNat_eq
  simp [laneOf]

/-- STATUS, bit by bit: READY is bit 6, ATTN_N bit 5, ARB bit 4, and FSM bits 3 to 0 (R25). -/
theorem statusReg_eq_sum (s : State) (ready : Bool) :
    (s.statusReg ready).setWidth 32 =
      (if ready then 0x40#32 else 0) + (if s.attnN then 0x20#32 else 0) + (if s.arb then 0x10#32 else 0) +
        s.fsm.setWidth 32 := by
  have hbits : ∀ (r a b : Bool) (f : BitVec 4),
      (0#1 ++ BitVec.ofBool r ++ BitVec.ofBool a ++ BitVec.ofBool b ++ f).setWidth 32 =
        (if r then 0x40#32 else 0) + (if a then 0x20#32 else 0) + (if b then 0x10#32 else 0) + f.setWidth 32 := by
    decide
  exact hbits ready s.attnN s.arb s.fsm

theorem exec_rdreg_sel (r : RegName) {idx : Byte} (hidx : idx.toNat ≤ 3) (s : State) :
    exec (.rdreg r.sel idx) s =
      .next (answer s .ok ((s.regValue s.move.ready r >>> (8 * idx.toNat)).setWidth 8)) := by
  simp only [exec, execRdreg, regOfSel_sel, if_pos hidx, laneOf_eq]
  rfl

/-- Settles O2: a field out of range answers RANGE (`execRdreg_range`); otherwise the selector is a register's
number, and the register is read as `exec_rdreg_sel` has it. -/
theorem rdregReadsOneLane : Obligations.RdregReadsOneLane := by
  unfold Obligations.RdregReadsOneLane
  intro sel idx data s
  refine ⟨decodeCmd32_of_encode (i := .rdreg sel idx) rfl, ?_⟩
  split
  · next hrange => exact execRdreg_range s hrange
  · next hrange =>
    obtain ⟨hsel, hidx⟩ := not_or.1 hrange
    obtain ⟨r, rfl⟩ := exists_eq_regSel (not_lt.1 hsel)
    rw [exec_rdreg_sel r (not_lt.1 hidx)]
    cases r with
    | status => rw [State.regValue, statusReg_eq_sum]; rfl
    | err | cfg | intW | intR | reqW | reqR | rspW | rspR => rfl

/-- Settles O3: by the number of the register, of which CFG alone is writable. -/
theorem wrregWritesCfgAlone : Obligations.WrregWritesCfgAlone := by
  unfold Obligations.WrregWritesCfgAlone
  intro sel idx data s
  refine ⟨decodeCmd32_of_encode (i := .wrreg sel data) rfl, ?_⟩
  split
  · next hrange => exact execWrreg_range data s hrange
  · next hrange =>
    obtain ⟨r, rfl⟩ := exists_eq_regSel (not_lt.1 hrange)
    simp only [exec, execWrreg, regOfSel_sel]
    cases r <;> rfl

/-! ## QCOUNT (R195) -/

/-- A queue's number, its selector in QCOUNT (R77). -/
def Queue.sel : Queue → Byte
  | .int => 0x00
  | .req => 0x01
  | .rsp => 0x02

theorem queueOfSel_sel (q : Queue) : queueOfSel q.sel = some q := by cases q <;> rfl

/-- The selectors up to 0x02 are the queues' numbers. -/
theorem exists_eq_queueSel {sel : Byte} (h : sel.toNat ≤ 0x02) : ∃ q : Queue, sel = q.sel := by
  have hsel : sel = BitVec.ofNat 8 sel.toNat := by simp
  generalize sel.toNat = n at h hsel
  interval_cases n
  exacts [⟨.int, hsel⟩, ⟨.req, hsel⟩, ⟨.rsp, hsel⟩]

theorem exec_qcount_sel (q : Queue) (s : State) :
    exec (.qcount q.sel) s = .next (answer s .ok ((s.count q).setWidth 8)) := by
  simp only [exec, execQcount, queueOfSel_sel]
  rfl

/-- Settles O5: a selector above 0x02 answers RANGE, and any other is a queue's number. -/
theorem qcountReturnsCount : Obligations.QcountReturnsCount := by
  unfold Obligations.QcountReturnsCount
  intro sel idx data s
  refine ⟨decodeCmd32_of_encode (i := .qcount sel) rfl, ?_⟩
  by_cases hrange : 0x02 < sel.toNat
  · split
    case h_4 => exact execQcount_range s hrange
    all_goals omega
  · obtain ⟨q, rfl⟩ := exists_eq_queueSel (not_lt.1 hrange)
    rw [exec_qcount_sel]
    cases q <;> rfl

/-! ## The request being built (R196 to R198) -/

theorem qFull_req_iff (s : State) : s.qFull .req = true ↔ s.reqW - s.reqR = 1 := by
  rw [← Bool.not_eq_false, qFull_req_eq_false_iff, not_not]

theorem exec_reqWrite_of_full {s : State} {idx : Byte} (data : Byte) (hidx : idx.toNat ≤ 127)
    (hfull : s.qFull .req = true) : exec (.reqWrite idx data) s = .next (answer s .full 0x00) :=
  (if_pos hidx).trans (if_pos hfull)

theorem exec_reqWrite_of_free {s : State} {idx : Byte} (data : Byte) (hidx : idx.toNat ≤ 127)
    (hfree : s.qFull .req = false) :
    exec (.reqWrite idx data) s = .next (answer (s.putByte (.req 0) idx.toNat data) .ok 0x00) := by
  simp only [exec, execReqWrite, if_pos hidx, hfree, reqTail_eq]
  rfl

/-- Settles O6: the request queue's free slot is REQ[0], and the write is one MemWrite into it. -/
theorem reqWriteStoresOneByte : Obligations.ReqWriteStoresOneByte := by
  unfold Obligations.ReqWriteStoresOneByte
  intro sel idx data s
  refine ⟨decodeCmd32_of_encode (i := .reqWrite idx data) rfl, execReqWrite_range data s,
    fun hidx hcount => exec_reqWrite_of_full data hidx ((qFull_req_iff s).2 hcount), fun hidx hcount =>
    ⟨_, exec_reqWrite_of_free data hidx ((qFull_req_eq_false_iff s).2 hcount), rfl, ?_, fun b j hj hne => ?_⟩⟩
  · exact byteAt_putByte_same s (.req 0) idx.toNat data
  · exact byteAt_putByte_of_ne s data (Nat.lt_succ_of_le hidx) hj hne

theorem exec_reqSetlen_of_full {s : State} {data : Byte} (hlen : data.toNat ≤ 128) (hfull : s.qFull .req = true) :
    exec (.reqSetlen data) s = .next (answer s .full 0x00) :=
  (if_pos hlen).trans (if_pos hfull)

theorem exec_reqSetlen_of_free {s : State} {data : Byte} (hlen : data.toNat ≤ 128) (hfree : s.qFull .req = false) :
    exec (.reqSetlen data) s = .next (answer (s.setCompleteLen (.req 0) data) .ok 0x00) := by
  simp only [exec, execReqSetlen, if_pos hlen, hfree, reqTail_eq]
  rfl

/-- Settles O7: the request queue's free slot is REQ[0], and the command writes its cursors alone. -/
theorem reqSetlenSetsLength : Obligations.ReqSetlenSetsLength := by
  unfold Obligations.ReqSetlenSetsLength
  intro sel idx data s
  refine ⟨decodeCmd32_of_encode (i := .reqSetlen data) rfl, execReqSetlen_range s,
    fun hlen hcount => exec_reqSetlen_of_full hlen ((qFull_req_iff s).2 hcount), fun hlen hcount =>
    ⟨_, exec_reqSetlen_of_free hlen ((qFull_req_eq_false_iff s).2 hcount), rfl, ?_, fun b hne => ?_⟩⟩
  · exact cursorsOf_setCursors_same s (.req 0) _
  · exact cursorsOf_setCursors_of_ne s _ hne

/-- Settles O8: a full queue is a count of 1, and the raise is written out by `raise_eq`. -/
theorem reqPublishAdvancesOrRefuses : Obligations.ReqPublishAdvancesOrRefuses := by
  unfold Obligations.ReqPublishAdvancesOrRefuses
  intro sel idx data s
  refine ⟨decodeCmd32_of_encode (i := .reqPublish) rfl, ?_⟩
  simp only [exec, execReqPublish, qFull_req_iff, raise_eq]
  rfl

/-! ## The head pair and the head response (R199 to R204) -/

theorem qEmpty_iff (s : State) (q : Queue) : s.qEmpty q = true ↔ s.count q = 0 := beq_iff_eq

/-- The selectors up to 0x01 are the channels' numbers (R77). -/
theorem chanOfSel_eq_some {sel : Byte} (h : sel.toNat ≤ 0x01) :
    chanOfSel sel = some (if sel = 0 then .up else .dn) := by
  have hsel : sel = BitVec.ofNat 8 sel.toNat := by simp
  generalize sel.toNat = n at h hsel
  interval_cases n <;> subst hsel <;> rfl

/-- What a read of the head slot's buffer answers: EMPTY, RANGE at or beyond the frame's end, or the byte. -/
theorem readHead_eq (s : State) (q : Queue) (b : BufName) (idx : Byte) :
    (if s.qEmpty q = true then s.hostRefuse .empty else s.readFrame b idx) =
      if s.count q = 0 then .next (answer s .empty 0x00)
      else if (s.completeLen b).toNat ≤ idx.toNat then .next (answer s .range 0x00)
      else .next (answer s .ok (s.byteAt b idx.toNat)) := by
  simp only [qEmpty_iff, readFrame_eq, ← not_le, ite_not]
  rfl

theorem exec_intRead_of_inRange {sel idx : Byte} (hsel : sel.toNat ≤ 0x01) (hidx : idx.toNat ≤ 127) (s : State) :
    exec (.intRead sel idx) s =
      if s.qEmpty .int = true then s.hostRefuse .empty
      else s.readFrame (.int (Fin.ofNat 2 s.intR.toNat) (if sel = 0 then .up else .dn)) idx := by
  simp only [exec, execIntRead, chanOfSel_eq_some hsel, if_pos hidx, intHead_eq]

theorem exec_rspRead_of_inRange {idx : Byte} (hidx : idx.toNat ≤ 127) (s : State) :
    exec (.rspRead idx) s =
      if s.qEmpty .rsp = true then s.hostRefuse .empty
      else s.readFrame (.rsp (Fin.ofNat 4 s.rspR.toNat)) idx := by
  simp only [exec, execRspRead, if_pos hidx, rspHead_eq]

/-- Settles O9: the field tests come first, and then both commands read a head buffer as `readHead_eq` has it. -/
theorem readsReturnHeadFrameBytes : Obligations.ReadsReturnHeadFrameBytes := by
  unfold Obligations.ReadsReturnHeadFrameBytes
  intro sel idx data s
  refine ⟨decodeCmd32_of_encode (i := .intRead sel idx) rfl, decodeCmd32_of_encode (i := .rspRead idx) rfl, ?_, ?_⟩
  · dsimp only
    split
    · next hrange => exact execIntRead_range s hrange
    · next hrange =>
      obtain ⟨hsel, hidx⟩ := not_or.1 hrange
      rw [exec_intRead_of_inRange (not_lt.1 hsel) (not_lt.1 hidx)]
      exact readHead_eq s .int _ idx
  · dsimp only
    split
    · next hrange => exact execRspRead_range s hrange
    · next hrange =>
      rw [exec_rspRead_of_inRange (not_lt.1 hrange)]
      exact readHead_eq s .rsp _ idx

/-- Settles O10. -/
theorem lengthsReturnHeadFrameLengths : Obligations.LengthsReturnHeadFrameLengths := by
  unfold Obligations.LengthsReturnHeadFrameLengths
  intro sel idx data s
  refine ⟨decodeCmd32_of_encode (i := .intLen sel) rfl, decodeCmd32_of_encode (i := .rspLen) rfl, ?_, ?_⟩
  · split
    · next hrange => exact execIntLen_range s hrange
    · next hrange =>
      simp only [exec, execIntLen, chanOfSel_eq_some (not_lt.1 hrange), qEmpty_iff, intHead_eq]
      rfl
  · simp only [exec, execRspLen, qEmpty_iff, rspHead_eq]
    rfl

theorem exec_intRelease_of_some {s : State} (hsome : s.count .int ≠ 0) :
    exec .intRelease s = .next (answer (s.qRelease .int) .ok 0x00) :=
  if_neg (mt (qEmpty_iff s .int).1 hsome)

theorem exec_rspRelease_of_some {s : State} (hsome : s.count .rsp ≠ 0) :
    exec .rspRelease s = .next (answer (s.qRelease .rsp) .ok 0x00) :=
  if_neg (mt (qEmpty_iff s .rsp).1 hsome)

theorem qRelease_int_cursorsOf_head (s : State) (c : Chan) :
    (s.qRelease .int).cursorsOf (s.intHead c) = Cursors.idle := by
  rw [qRelease_cursorsOf]
  cases c with
  | up => exact if_pos (.inl rfl)
  | dn => exact if_pos (.inr rfl)

theorem qRelease_rsp_cursorsOf_head (s : State) : (s.qRelease .rsp).cursorsOf s.rspHead = Cursors.idle := by
  rw [qRelease_cursorsOf]
  exact if_pos rfl

/-- Settles O11: a release idles the head slot's buffers (R116), and `sameBuffer_qRelease_int` and
`sameBuffer_qRelease_rsp` say that the others stay. -/
theorem releasesFreeTheHeadSlot : Obligations.ReleasesFreeTheHeadSlot := by
  unfold Obligations.ReleasesFreeTheHeadSlot
  intro sel idx data s
  simp only [← intHead_eq, ← rspHead_eq]
  refine ⟨decodeCmd32_of_encode (i := .intRelease) rfl, decodeCmd32_of_encode (i := .rspRelease) rfl,
    fun hempty => if_pos ((qEmpty_iff s .int).2 hempty), fun hsome =>
      ⟨_, exec_intRelease_of_some hsome, rfl, qRelease_int_cursorsOf_head s, fun b hb =>
        (sameBuffer_qRelease_int s hb).cursorsOf⟩,
    fun hempty => if_pos ((qEmpty_iff s .rsp).2 hempty), fun hsome =>
      ⟨_, exec_rspRelease_of_some hsome, rfl, qRelease_rsp_cursorsOf_head s, fun b hb =>
        (sameBuffer_qRelease_rsp s hb).cursorsOf⟩⟩

end Sys2Proof.Machine
end

section
/-! PROOFS. Faults as the block records them: what a raise does, which kinds a step raises and that each stands in
ERR after it, and that no step of a sound state stops (60_exceptions.md R230 to R232, R234, R244; 20_memory.md R62;
43_bus_injector.md R168). -/

namespace Sys2Proof.Machine

/-! ## One raise (R231) -/

/-- Settles O41: `raise_eq`, with the mask of a kind written out. -/
theorem raiseSetsOneStickyBit : Obligations.RaiseSetsOneStickyBit := by
  unfold Obligations.RaiseSetsOneStickyBit
  exact raise_eq

/-! ## Raises among given kinds (R232, R244) -/

/-- No update of ERR may be lost (R62). -/
def State.KeepsUpdates (s : State) : Prop := Config.params.errLostUpdates = false ∨ s.errFresh = false

theorem State.KeepsUpdates.updateLost {s : State} (h : s.KeepsUpdates) (k : FaultKind) : s.updateLost k = false := by
  rcases h with h | h <;> simp [State.updateLost, h]

/-- Between `s` and `t` only kinds of the mask `kinds` are raised, and where no update may be lost ERR is ORed with
exactly the kinds that are. -/
def RaisesOnly (kinds : BitVec 8) (s t : State) : Prop :=
  ∃ m, m &&& kinds = m ∧ t.out.raised = s.out.raised ||| m ∧ (s.KeepsUpdates → t.err = s.err ||| m)

theorem RaisesOnly.of_eq {kinds : BitVec 8} {s t : State} (hraised : t.out.raised = s.out.raised)
    (herr : t.err = s.err) : RaisesOnly kinds s t :=
  ⟨0#8, BitVec.zero_and, by rw [hraised, BitVec.or_zero], fun _ => by rw [herr, BitVec.or_zero]⟩

theorem raisesOnly_raise (s : State) (k : FaultKind) : RaisesOnly k.mask s (s.raise k) :=
  ⟨k.mask, BitVec.and_self, rfl, fun h => by simp [h.updateLost k]⟩

theorem RaisesOnly.mono {kinds kinds' : BitVec 8} {s t : State} (h : RaisesOnly kinds s t)
    (hle : kinds &&& kinds' = kinds) : RaisesOnly kinds' s t := by
  obtain ⟨m, hm, hraised, herr⟩ := h
  refine ⟨m, ?_, hraised, herr⟩
  rw [← hm, BitVec.and_assoc, hle]

/-- Within a step, before its end writes the record of R62, raises add up. -/
theorem RaisesOnly.trans {kinds : BitVec 8} {s t u : State} (hst : RaisesOnly kinds s t)
    (hfresh : t.errFresh = s.errFresh) (htu : RaisesOnly kinds t u) : RaisesOnly kinds s u := by
  obtain ⟨m, hm, hraised, herr⟩ := hst
  obtain ⟨m', hm', hraised', herr'⟩ := htu
  refine ⟨m ||| m', ?_, by rw [hraised', hraised, BitVec.or_assoc], fun hkeeps => ?_⟩
  · rw [BitVec.and_comm, BitVec.and_or_distrib_left, BitVec.and_comm, hm, BitVec.and_comm, hm']
  · have hkeeps' : t.KeepsUpdates := hkeeps.imp_right hfresh.trans
    rw [herr' hkeeps', herr hkeeps, BitVec.or_assoc]

theorem RaisesOnly.then_eq {kinds : BitVec 8} {s t u : State} (hst : RaisesOnly kinds s t)
    (hraised : u.out.raised = t.out.raised) (herr : u.err = t.err) : RaisesOnly kinds s u := by
  obtain ⟨m, hm, hraised', herr'⟩ := hst
  exact ⟨m, hm, hraised.trans hraised', fun hkeeps => herr.trans (herr' hkeeps)⟩

/-! ## What the shared operations raise -/

theorem raisesOnly_feed (s : State) (b : BufName) (x : Byte) :
    RaisesOnly FaultKind.overflow.mask s (s.feed b x).1 := by
  obtain ⟨m, c, hfa⟩ := faAppend_only s b x
  rw [feed_eq, hfa]
  split
  · exact raisesOnly_raise { s with mem := m, cursors := c } .overflow
  · exact .of_eq (by rw [hfa]) (by rw [hfa])

theorem raisesOnly_feedOpt (s : State) (b : BufName) (offer : Option Byte) :
    RaisesOnly FaultKind.overflow.mask s (s.feedOpt b offer).1 := by
  cases offer with
  | none => exact .of_eq rfl rfl
  | some x => exact raisesOnly_feed s b x

theorem raisesOnly_rspPush {s t : State} {src : BufName} (h : s.rspPush src = .ok t) :
    RaisesOnly FaultKind.bpRsp.mask s t := by
  rcases rspPush_cases h with ⟨-, rfl⟩ | ⟨-, -, rfl⟩
  · exact raisesOnly_raise s .bpRsp
  · obtain ⟨m, hm⟩ := copyBytes_only s src s.rspTail (s.completeLen src).toNat
    rw [hm]
    exact .of_eq rfl rfl

theorem raisesOnly_mirrorOne {s t : State} {w : Fin Config.nInt} {c : Chan} (h : s.mirrorOne w c = .ok t) :
    RaisesOnly FaultKind.bpRsp.mask s t := by
  rcases mirrorOne_cases h with rfl | ⟨-, hpush⟩
  · exact .of_eq rfl rfl
  · exact raisesOnly_rspPush hpush

theorem mirrorOne_errFresh {s t : State} {w : Fin Config.nInt} {c : Chan} (h : s.mirrorOne w c = .ok t) :
    t.errFresh = s.errFresh := by
  obtain ⟨_, _, _, _, _, rfl⟩ := mirrorOne_only h
  rfl

theorem raisesOnly_publishPair {s t : State} {w : Fin Config.nInt} (h : s.publishPair w = .ok t) :
    RaisesOnly FaultKind.bpRsp.mask s t := by
  rcases publishPair_cases h with ⟨-, rfl⟩ | ⟨-, u, hu, rfl⟩
  · exact .of_eq rfl rfl
  · obtain ⟨_, _, v, -, hfirst, hsecond⟩ := mirror_cases hu
    exact ((raisesOnly_mirrorOne hfirst).trans (mirrorOne_errFresh hfirst) (raisesOnly_mirrorOne hsecond)).then_eq
      rfl rfl

theorem raisesOnly_snoopFed (s : State) : RaisesOnly FaultKind.overflow.mask s s.snoopFed := by
  rw [snoopFed_eq_feedOpt]
  refine (raisesOnly_feedOpt s _ _).trans ?_ (raisesOnly_feedOpt _ _ _)
  obtain ⟨m, c, e, o, hup⟩ := feedOpt_only s (.int s.workingSlot .up) s.move.up
  rw [hup]

theorem raisesOnly_capDeadline (s : State) : RaisesOnly FaultKind.timeout.mask s s.capDeadline := by
  rcases capDeadline_cases s with ⟨-, h⟩ | ⟨-, h⟩ <;> rw [h]
  · exact (raisesOnly_raise s .timeout).then_eq rfl rfl
  · exact .of_eq rfl rfl

/-! ## What a step raises (R232) -/

/-- The kinds that an operation can raise: the table of R232, read by its column `raised by`. -/
def faultKinds : Instr → BitVec 8
  | .sSnoop => 0x52
  | .sCap => 0x0E
  | .sValidate => 0x01
  | .sCommit => 0x40
  | .reqPublish => 0x20
  | _ => 0x00

/-- S_SNOOP raises OVERFLOW where a byte is fed, and then BP_INT for a dropped pair or BP_RSP for a dropped copy. -/
theorem raisesOnly_execSSnoop {s t : State} (h : execSSnoop s = .next t) : RaisesOnly 0x52 s t := by
  obtain ⟨fed, hfed, hend⟩ := execSSnoop_cases h
  rw [← snoopFed_eq_feedOpt] at hfed
  subst hfed
  have hfeed : RaisesOnly 0x52 s s.snoopFed := (raisesOnly_snoopFed s).mono (by decide)
  have hfresh : s.snoopFed.errFresh = s.errFresh := by
    obtain ⟨m, c, e, o, hfed⟩ := snoopFed_only s
    rw [hfed]
  obtain ⟨-, -, ⟨-, rfl⟩ | ⟨-, u, hu, rfl⟩⟩ | ⟨-, rfl⟩ := hend
  · have hdrop : RaisesOnly 0x52 s.snoopFed (s.snoopFed.raise .bpInt) := (raisesOnly_raise _ _).mono (by decide)
    exact (hfeed.trans hfresh hdrop).then_eq rfl rfl
  · exact (hfeed.trans hfresh ((raisesOnly_publishPair hu).mono (by decide))).then_eq rfl rfl
  · exact hfeed.then_eq rfl rfl

/-- S_CAP raises GLITCH for a filtered byte or OVERFLOW for a fed one, and TIMEOUT at the deadline. -/
theorem raisesOnly_execSCap {s t : State} (h : exec .sCap s = .next t) : RaisesOnly 0x0E s t := by
  obtain ⟨u, hu, hend⟩ := exec_sCap_ends s
  have hpolled : RaisesOnly 0x0E s s.polled := .of_eq rfl rfl
  have hpoll : RaisesOnly 0x0E s u := by
    cases hu with
    | nothing => exact hpolled
    | filtered => exact hpolled.trans rfl ((raisesOnly_raise _ .glitch).mono (by decide))
    | fed x => exact hpolled.trans rfl ((raisesOnly_feed _ _ x).mono (by decide))
  have hfresh : u.errFresh = s.errFresh := by
    obtain ⟨m, c, e, o, rfl⟩ := hu.only
    rfl
  rcases hend with hexec | hexec <;> obtain rfl := Host.Outcome.next.inj (hexec.symm.trans h)
  · exact hpoll.then_eq rfl rfl
  · exact hpoll.trans hfresh ((raisesOnly_capDeadline u).mono (by decide))

/-- Of the host commands only REQ_PUBLISH raises a fault (R198); ERR_CLEAR clears ERR instead. -/
theorem HostEffect.raisesOnly {i : Instr} {s u : State} (h : HostEffect s i u) (hi : i ≠ .errClear) :
    RaisesOnly (faultKinds i) s u := by
  cases h with
  | clearErr => exact absurd rfl hi
  | refusePublish => exact raisesOnly_raise s .bpReq
  | nothing | writeCfg | writeByte | setLen | publish | releasePair | releaseResponse => exact .of_eq rfl rfl

/-- Every operation but ERR_CLEAR raises faults of its own kinds alone, and ERR records them. -/
theorem exec_raisesOnly {i : Instr} {s t : State} (hi : i ≠ .errClear) (h : exec i s = .next t) :
    RaisesOnly (faultKinds i) s t := by
  cases i with
  | sSnoop => exact raisesOnly_execSSnoop h
  | sEval => rcases execSEval_cases h with ⟨-, rfl⟩ | ⟨-, rfl⟩ <;> exact .of_eq rfl rfl
  | sGuard => rcases execSGuard_cases h with ⟨-, rfl⟩ | ⟨-, -, rfl⟩ | ⟨-, -, rfl⟩ <;> exact .of_eq rfl rfl
  | sValidate =>
    obtain ⟨-, ⟨-, rfl⟩ | ⟨-, rfl⟩⟩ := execSValidate_cases h
    · exact .of_eq rfl rfl
    · exact (raisesOnly_raise s .framing).then_eq rfl rfl
  | sTx => rcases execSTx_cases h with ⟨-, rfl⟩ | ⟨-, -, -, ⟨-, rfl⟩ | ⟨-, rfl⟩⟩ <;> exact .of_eq rfl rfl
  | sCap => exact raisesOnly_execSCap h
  | sCommit =>
    obtain ⟨u, hu, rfl⟩ := execSCommit_cases h
    have hlines : RaisesOnly FaultKind.bpRsp.mask s s.busReleased := .of_eq rfl rfl
    exact (hlines.trans rfl (raisesOnly_rspPush hu)).then_eq rfl rfl
  | sAbort =>
    obtain rfl := execSAbort_next h
    exact .of_eq rfl rfl
  | faAppend x =>
    obtain rfl := Host.Outcome.next.inj h
    obtain ⟨m, c, hfa⟩ := faAppend_only s s.faBuf x
    exact .of_eq (by rw [hfa]) (by rw [hfa])
  | faClear =>
    obtain rfl : s.faClear s.faBuf = t := Host.Outcome.next.inj h
    exact .of_eq rfl rfl
  | _ =>
    obtain ⟨u, fresh, result, he, rfl⟩ := exec_host_effect rfl h
    exact (he.raisesOnly hi).then_eq rfl rfl

/-- Settles O43: `exec_raisesOnly` for every operation but ERR_CLEAR, which raises nothing. -/
theorem faultsComeFromTheirSteps : Obligations.FaultsComeFromTheirSteps := by
  unfold Obligations.FaultsComeFromTheirSteps
  intro i s t h
  by_cases hi : i = .errClear
  · subst hi
    obtain rfl := Host.Outcome.next.inj h
    exact ⟨0, BitVec.or_zero.symm, BitVec.zero_and⟩
  · obtain ⟨m, hm, hraised, -⟩ := exec_raisesOnly hi h
    exact ⟨m, hraised, hm⟩

/-- Settles O44: with nothing raised before the step, the kinds of `exec_raisesOnly` are all that is raised after
it. -/
theorem raisedFaultsAreRecorded : Obligations.RaisedFaultsAreRecorded := by
  unfold Obligations.RaisedFaultsAreRecorded
  intro i s t hkeeps hi hnone h
  obtain ⟨m, -, hraised, herr⟩ := exec_raisesOnly hi h
  have hall : t.out.raised = m := by rw [hraised, hnone]; exact BitVec.zero_or
  rw [herr hkeeps, hall]

/-! ## No step of a sound state stops (R168, R230) -/

/-- The codes below 8 are the ENGINE's states (R78). -/
theorem exists_eq_code {c : BitVec 4} (h : c.toNat < 8) : ∃ e : EngineState, c = e.code := by
  have hlisted : ∀ c : BitVec 4, c.toNat < 8 →
      ∃ e ∈ [EngineState.snoop, .eval, .guard, .validate, .tx, .cap, .commit, .abort], c = e.code := by decide
  obtain ⟨e, -, he⟩ := hlisted c h
  exact ⟨e, he⟩

/-- Under the invariant every length is in the capacity (R93, R153). -/
theorem Inv.completeLen_le {s : State} (h : Inv s) (b : BufName) : (s.completeLen b).toNat ≤ Config.capacity := by
  cases b with
  | req i => exact (h.requests i).2
  | int | rsp | cap =>
    by_contra hlt
    refine hlt ((h.frames _ rfl).1 fun hzero => hlt ?_).2.1
    rw [hzero]
    exact Nat.zero_le _

/-- ENGINE's step in its own state answers a state: every cursor it reads through is in the capacity. -/
theorem Inv.exec_engine_next {s : State} {e : EngineState} (h : Inv s) (hfsm : s.fsm = e.code) :
    ∃ t, exec e.instr s = .next t := by
  have hreq : (s.completeLen (.req 0)).toNat ≤ Config.capacity := h.completeLen_le _
  cases e with
  | snoop =>
    obtain ⟨u, hexec, -⟩ := exec_sSnoop_ends (h.completeLen_le _)
    exact ⟨_, hexec⟩
  | eval =>
    simp only [EngineState.instr, exec, execSEval]
    split <;> exact ⟨_, rfl⟩
  | guard =>
    simp only [EngineState.instr, exec, execSGuard]
    split
    · exact ⟨_, rfl⟩
    · split <;> exact ⟨_, rfl⟩
  | validate =>
    by_cases hframed : s.requestFramed = true
    · exact ⟨_, exec_sValidate_of_framed hreq hframed⟩
    · exact ⟨_, exec_sValidate_of_unframed hreq hframed⟩
  | tx =>
    have htxi : s.txi.toNat < Config.capacity := (h.sending hfsm).trans_le (h.completeLen_le _)
    cases hclock : s.move.clock with
    | none => exact ⟨_, exec_sTx_of_noClock hclock⟩
    | some lb =>
      by_cases hlast : s.txi + 1 = s.completeLen (.req 0)
      · exact ⟨_, exec_sTx_of_last hclock htxi hlast⟩
      · exact ⟨_, exec_sTx_of_more hclock htxi hlast⟩
  | cap =>
    obtain ⟨u, -, hexec | hexec⟩ := exec_sCap_ends s
    · exact ⟨_, hexec⟩
    · exact ⟨_, hexec⟩
  | commit =>
    obtain ⟨u, hpush⟩ := rspPush_ok s.busReleased .cap (h.completeLen_le .cap)
    exact ⟨_, exec_sCommit_of_push hpush⟩
  | abort => exact ⟨_, exec_sAbort s⟩

theorem canStep_engine {s : State} (h : Inv s) (hturn : s.move.turn = .engine) : CanStep s := by
  obtain ⟨e, hfsm⟩ := exists_eq_code (of_decide_eq_true h.fsm)
  have hbegin : Inv s.beginStep := h.of_untracked _ _ _ _ _ _ _ _
  obtain ⟨t, hexec⟩ := hbegin.exec_engine_next hfsm
  exact ⟨t.endStep, by rw [step_engine h.faWord hturn hfsm, hexec, endOutcome]⟩

/-- HOST's turn runs its command, answers ILLEGAL to a reserved word, or is held (R190, R205, R238). -/
theorem canStep_host {s : State} {w : Word} (hfa : s.faWord = none) (hturn : s.move.turn = .host w) : CanStep s := by
  by_cases henabled : s.hostEnabled = true
  · cases hdecode : decodeCmd32 w with
    | ok i =>
      obtain ⟨t, hexec, -⟩ := returns_exec_host (decodeCmd32_format hdecode) s.beginStep
      have hstep := step_of_fetch_run (fetch_eq_run hfa (.inr ⟨w, hturn, henabled, hdecode⟩))
      exact ⟨t.endStep, by rw [hstep, hexec, endOutcome]⟩
    | error e => exact ⟨_, step_host_illegal hfa hturn henabled hdecode⟩
  · exact ⟨_, step_host_hold hfa hturn henabled⟩

/-- Settles O59: the agent that moves is ENGINE in a legal state, HOST, or TIMER. -/
theorem invariantStatesNeverStop : Obligations.InvariantStatesNeverStop := by
  unfold Obligations.InvariantStatesNeverStop
  intro s h
  cases hturn : s.move.turn with
  | engine => exact canStep_engine h hturn
  | host w => exact canStep_host h.faWord hturn
  | timer extra => exact ⟨_, step_timer h.faWord hturn⟩

end Sys2Proof.Machine
end

section
/-! PROOFS. The block right after reset: every buffer is idle, every queue empty, and the invariant holds
(70_reset_and_hazards.md R261; 10_state.md R22; 41_spsc_queue.md R113). -/

namespace Sys2Proof.Machine

theorem reset_idle (b : BufName) : State.reset.idle b = true :=
  (idle_iff_cursorsOf _ b).2 (reset_cursorsOf b)

theorem reset_completeLen (b : BufName) : State.reset.completeLen b = 0 :=
  ((idle_iff _ b).1 (reset_idle b)).2

@[simp] theorem reset_count (q : Queue) : State.reset.count q = 0 := by cases q <;> rfl

/-- An empty queue has no published slot (R61). -/
theorem not_slotPublished_of_count_zero {s : State} {q : Queue} (h : s.count q = 0) (n i : Nat) :
    ¬ s.slotPublished q n i = true := by
  rw [slotPublished_iff, h]
  exact Nat.not_lt_zero _

theorem reset_not_slotPublished (q : Queue) (n i : Nat) : ¬ State.reset.slotPublished q n i = true :=
  not_slotPublished_of_count_zero (reset_count q) n i

theorem reset_buffersOk : BuffersOk State.reset :=
  ⟨reset_mem_wf, fun b => bufferOk_of_idle (reset_idle b)⟩

theorem reset_responsesOk : ResponsesOk State.reset where
  bound := by simp
  published i hi := absurd hi (reset_not_slotPublished _ _ _)
  free i _ := reset_idle (.rsp i)

theorem reset_pairsOk : PairsOk State.reset where
  bound := by simp
  published i hi := absurd hi (reset_not_slotPublished _ _ _)
  unpublished i _ := reset_completeLen (.int i .up)
  free i c _ _ := reset_idle (.int i c)

/-- ENGINE is in S_SNOOP, with the bus released: no transaction is under way (R39). -/
theorem reset_engineOk : EngineOk State.reset where
  fsm := by decide
  arb := rfl
  attnN := rfl
  bound := by simp
  capIdle _ := reset_idle .cap
  capComplete := iff_of_false (not_not_intro (reset_completeLen .cap)) (by decide)
  transaction h := absurd h (by decide)
  validated h := absurd h (by decide)
  sending h := absurd h (by decide)

/-- Settles O58: the parts of the invariant, each from idle buffers, empty queues and ENGINE in S_SNOOP. -/
theorem resetHasTheInvariant : Obligations.ResetHasTheInvariant := by
  unfold Obligations.ResetHasTheInvariant
  exact (inv_iff State.reset).2
    ⟨rfl, rfl, reset_buffersOk, reset_responsesOk, reset_pairsOk, reset_engineOk⟩

end Sys2Proof.Machine
end
